-- ==== Sys2Proof/Config.lean ====
section
/-! DEFINITION. Config: the constants of BPXM. Rules R6 and R7 fix every parameter ("a model takes them as constants"), and
92_eei_decisions.md leaves none open, so this file holds no free value and no opaque constant.
The widths stand as literals in the types of Word.lean; Laws/Config.lean proves that the two agree. -/

namespace Sys2Proof.Config

/-- `BLOCK_BYTES` (R6): bytes in a Block. -/
def blockBytes : Nat := 16
/-- `DIM` (R6): rows and columns of the 4x4 byte matrix view of a Block. -/
def dim : Nat := 4
/-- `ROUNDS` (R6): rounds of the Cipher Engine. -/
def rounds : Nat := 3
/-- `NKEYS` (R6): round keys in the Key Material. -/
def nkeys : Nat := 3
/-- `KEYFILE_BYTES` (R6): bytes of a key file. -/
def keyfileBytes : Nat := 48
/-- `ATK_KEY1_FILL` (R6, R143): every byte of the attack's chosen `key1`. -/
def atkKey1Fill : BitVec 8 := 0x01
/-- `ATK_KEY2_FILL` (R6, R143): every byte of the attack's chosen `key2`. -/
def atkKey2Fill : BitVec 8 := 0x00
/-- `NREG` (R7): block registers. -/
def nreg : Nat := 7
/-- `SEL_BITS` (R7): width of a register select. -/
def selBits : Nat := 3
/-- `CMD_BITS` (R7): width of a command word. -/
def cmdBits : Nat := 16
/-- `DATA_BITS` (R7): width of the request and response data paths. -/
def dataBits : Nat := 128
/-- `STATUS_BITS` (R7): width of the STATUS word. -/
def statusBits : Nat := 32

end Sys2Proof.Config
end

