-- ==== Sys2Proof/Word.lean ====
section
/-! DEFINITION. Word: the kinds of data BPXM handles (R8, R12, R34, R61): bytes, blocks, command words, register selects, the
128-bit data path, the 32-bit STATUS word, and the names of the seven block registers. -/

namespace Sys2Proof

/-- A byte: an unsigned integer in 0..255 (R8). -/
abbrev Byte := BitVec 8

/-- A block: exactly 16 bytes; entry `j` is the byte at linear position `j` (R8, R16). -/
abbrev Block := Vector Byte 16

/-- A command word (R61). -/
abbrev CmdWord := BitVec 16

/-- A register select (R12): 0..6 name a block register, 7 names nothing. -/
abbrev Sel := BitVec 3

/-- The request and response data path (R32, R33). -/
abbrev Data := BitVec 128

/-- The STATUS word (R19). -/
abbrev StatusWord := BitVec 32

/-- The names of the seven block registers (R12): four data registers and the three round keys.
Select 7 names nothing, so it is no constructor. -/
inductive Reg where
  | d0 | d1 | d2 | d3 | k1 | k2 | k3
  deriving DecidableEq, Repr

end Sys2Proof
end

