-- ==== Sys2Proof/Machine/BlockFunctions.lean ====
section
/-! DEFINITION. BlockFunctions: the source's pure functions on blocks. R8's names L, Rr, X, T, Enc, Dec, C2, Rec are
`rotateRowsLeft`, `rotateRowsRight`, `xorWithKey`, `transpose`, `encrypt`, `decrypt`, `c2tag`, `recoverKey3` here. -/

namespace Sys2Proof.Machine

/-- `[v]*16` (R8). -/
def constBlock (v : Byte) : Block := Vector.replicate 16 v

/-- The block whose byte at `p` is the byte of `b` at `src p`: a lane permutation (R96) when `src` is one. -/
def permute (src : Fin 16 → Fin 16) (b : Block) : Block :=
  Vector.ofFn fun p => b[src p]

/-- R90: place `c` of row `i` comes from place `(c + i) mod 4` of the row. -/
def leftSource (p : Fin 16) : Fin 16 :=
  ⟨4 * (p.val / 4) + (p.val % 4 + p.val / 4) % 4, by omega⟩

/-- R91: place `c` of row `i` comes from place `(c - i) mod 4` of the row; 4 is added so that the natural difference is
R8's non-negative remainder. -/
def rightSource (p : Fin 16) : Fin 16 :=
  ⟨4 * (p.val / 4) + (p.val % 4 + 4 - p.val / 4) % 4, by omega⟩

/-- R110: position `4a + c` comes from position `4c + a`. -/
def transposeSource (p : Fin 16) : Fin 16 :=
  ⟨4 * (p.val % 4) + p.val / 4, by omega⟩

/-- `L` (R90). -/
def rotateRowsLeft (b : Block) : Block := permute leftSource b

/-- `Rr` (R91). -/
def rotateRowsRight (b : Block) : Block := permute rightSource b

/-- `T` (R110). -/
def transpose (b : Block) : Block := permute transposeSource b

/-- `X` (R92): byte-wise exclusive or. -/
def xorWithKey (b k : Block) : Block :=
  Vector.ofFn fun j => b[j] ^^^ k[j]

/-- `Enc` (R120): three rounds of rotate left, then XOR with the round key. -/
def encrypt (b key1 key2 key3 : Block) : Block :=
  let r1 := xorWithKey (rotateRowsLeft b) key1
  let r2 := xorWithKey (rotateRowsLeft r1) key2
  xorWithKey (rotateRowsLeft r2) key3

/-- `Dec` (R121): the rounds inverted, last key first. -/
def decrypt (b key1 key2 key3 : Block) : Block :=
  let r2 := rotateRowsRight (xorWithKey b key3)
  let r1 := rotateRowsRight (xorWithKey r2 key2)
  rotateRowsRight (xorWithKey r1 key1)

/-- `C2` (R140): the round-3 input under the attacker's keys. -/
def c2tag (p key1 key2 : Block) : Block :=
  let t1 := xorWithKey (rotateRowsLeft p) key1
  let t2 := xorWithKey (rotateRowsLeft t1) key2
  rotateRowsLeft t2

/-- `Rec` (R141): the recovered third key. -/
def recoverKey3 (p c key1 key2 : Block) : Block :=
  xorWithKey c (c2tag p key1 key2)

/-- R112: the layout transform of a block sequence, block by block. -/
def transposeSequence (bs : List Block) : List Block := bs.map transpose

end Sys2Proof.Machine
end

