-- ==== Sys2Proof/Syntax.lean ====
section
/-! DEFINITION. Syntax: the commands of BPXM, one constructor per row of spec/opcode_table.json (R64). Operands are block
registers (R65): there are no immediates and nothing else in a command. The pseudo-instructions of R79 are sequences of these
commands and stand in Machine/Assembler.lean. -/

namespace Sys2Proof

inductive Instr where
  /-- `ROTL rd, rs1` (R93): rotate rows left. -/
  | rotl (rd rs1 : Reg)
  /-- `ROTR rd, rs1` (R94): rotate rows right. -/
  | rotr (rd rs1 : Reg)
  /-- `XORK rd, rs1, rs2` (R95): XOR with key. -/
  | xork (rd rs1 rs2 : Reg)
  /-- `TRSP rd, rs1` (R111): transpose one block. -/
  | trsp (rd rs1 : Reg)
  /-- `ENC rd, rs1` (R122): encrypt one block with the keys in K1, K2, K3. -/
  | enc (rd rs1 : Reg)
  /-- `DEC rd, rs1` (R123): decrypt one block with the keys in K1, K2, K3. -/
  | dec (rd rs1 : Reg)
  /-- `RK3 rs1, rs2` (R142): recover `key3` from plaintext `rs1` and ciphertext `rs2` under the keys in K1, K2. -/
  | rk3 (rs1 rs2 : Reg)
  /-- `ATK rs1, rs2` (R143): the whole attack with the reference constants. -/
  | atk (rs1 rs2 : Reg)
  deriving DecidableEq, Repr

end Sys2Proof
end

