-- ==== Sys2Proof/WellFormed.lean ====
section
/-! DEFINITION. WellFormed: which raw command words are well formed (R63, R64, R71 to R73), checked field by field and apart
from the decoder. An `Instr` names its registers by `Reg`, which has no constructor for select 7, so every `Instr` is well
formed by construction; the ill-formed terms of this hardware are raw fields. That the decoder accepts exactly the
well-formed fields is a statement, not a definition. -/

namespace Sys2Proof

/-- The five fields of a command word (R62). -/
structure Fields where
  op : BitVec 4
  rd : Sel
  rs1 : Sel
  rs2 : Sel
  z : BitVec 3
  deriving DecidableEq, Repr

/-- The command formats (R63): one source and one destination, two sources and one destination, two sources with implicit
destinations. -/
inductive Format where
  | u | b | p
  deriving DecidableEq, Repr

/-- The format of an opcode, `none` for a reserved one (R63, R64, R71). -/
def Format.ofOp (op : BitVec 4) : Option Format :=
  match op.toNat with
  | 1 => some .u
  | 2 => some .u
  | 3 => some .b
  | 4 => some .u
  | 5 => some .u
  | 6 => some .u
  | 7 => some .p
  | 8 => some .p
  | _ => none

/-- The fields a format does not use, and `z`, are zero (R63, R73). -/
def Format.unusedZero (fmt : Format) (f : Fields) : Bool :=
  f.z == 0 &&
  match fmt with
  | .u => f.rs2 == 0
  | .b => true
  | .p => f.rd == 0

/-- The register fields a format uses name a register (R72). -/
def Format.selectsName (fmt : Format) (f : Fields) : Bool :=
  match fmt with
  | .u => f.rd != 7 && f.rs1 != 7
  | .b => f.rd != 7 && f.rs1 != 7 && f.rs2 != 7
  | .p => f.rs1 != 7 && f.rs2 != 7

/-- Raw fields are well formed when the opcode is assigned (R71), the must-be-zero fields are zero (R73) and every used
register field is in 0..6 (R72). -/
def Fields.wellFormed (f : Fields) : Bool :=
  match Format.ofOp f.op with
  | none => false
  | some fmt => fmt.unusedZero f && fmt.selectsName f

end Sys2Proof
end

