-- ==== Sys2Proof/Decode.lean ====
section
/-! DEFINITION. Decode: the command decoder of R66, total on 16-bit words and rejecting by name, and the encoder of R62 to R64
beside it. The reasons of a rejection are not visible to the host (every one raises `E_ILLEGAL`, R74). -/

namespace Sys2Proof

/-- Why a word is illegal (R71 to R73), in the order R66 makes the checks. -/
inductive Illegal where
  /-- bits 2:0 are not 000 (R73). -/
  | zNotZero
  /-- `rs2` is not 000 in format U (R73). -/
  | rs2NotZero
  /-- `rd` is not 000 in format P (R73). -/
  | rdNotZero
  /-- `rd` is 7 in a format that uses it (R72). -/
  | rdSelect7
  /-- `rs1` is 7 (R72). -/
  | rs1Select7
  /-- `rs2` is 7 in a format that uses it (R72). -/
  | rs2Select7
  /-- `op` is 0 or 9..15 (R71). -/
  | reservedOpcode
  deriving DecidableEq, Repr

/-- The select of a register (R12, R65). -/
def Reg.sel : Reg → Sel
  | .d0 => 0#3
  | .d1 => 1#3
  | .d2 => 2#3
  | .d3 => 3#3
  | .k1 => 4#3
  | .k2 => 5#3
  | .k3 => 6#3

/-- The register a select names, `none` for select 7 (R12, R51). -/
def Reg.ofSel (n : Sel) : Option Reg :=
  match n.toNat with
  | 0 => some .d0
  | 1 => some .d1
  | 2 => some .d2
  | 3 => some .d3
  | 4 => some .k1
  | 5 => some .k2
  | 6 => some .k3
  | _ => none

/-- The fields of a word (R62): `op` 15:12, `rd` 11:9, `rs1` 8:6, `rs2` 5:3, `z` 2:0. -/
def Fields.ofWord (w : CmdWord) : Fields where
  op := w.extractLsb' 12 4
  rd := w.extractLsb' 9 3
  rs1 := w.extractLsb' 6 3
  rs2 := w.extractLsb' 3 3
  z := w.extractLsb' 0 3

/-- The word of the fields, `op*4096 + rd*512 + rs1*64 + rs2*8 + z` (R62). -/
def Fields.toWord (f : Fields) : CmdWord :=
  BitVec.ofNat 16 (f.op.toNat * 4096 + f.rd.toNat * 512 + f.rs1.toNat * 64 + f.rs2.toNat * 8 + f.z.toNat)

/-- A used register field: the register, or the rejection named when it is 7 (R72). -/
def usedField (why : Illegal) (n : Sel) : Except Illegal Reg :=
  match Reg.ofSel n with
  | some r => .ok r
  | none => .error why

/-- Format U (R66): `rs2` must be 000, `rd` and `rs1` name registers. -/
def decodeU (mk : Reg → Reg → Instr) (f : Fields) : Except Illegal Instr :=
  if f.rs2 = 0 then do
    let rd ← usedField .rdSelect7 f.rd
    let rs1 ← usedField .rs1Select7 f.rs1
    return mk rd rs1
  else .error .rs2NotZero

/-- Format B (R66): `rd`, `rs1` and `rs2` name registers. -/
def decodeB (mk : Reg → Reg → Reg → Instr) (f : Fields) : Except Illegal Instr := do
  let rd ← usedField .rdSelect7 f.rd
  let rs1 ← usedField .rs1Select7 f.rs1
  let rs2 ← usedField .rs2Select7 f.rs2
  return mk rd rs1 rs2

/-- Format P (R66): `rd` must be 000, `rs1` and `rs2` name registers. -/
def decodeP (mk : Reg → Reg → Instr) (f : Fields) : Except Illegal Instr :=
  if f.rd = 0 then do
    let rs1 ← usedField .rs1Select7 f.rs1
    let rs2 ← usedField .rs2Select7 f.rs2
    return mk rs1 rs2
  else .error .rdNotZero

/-- R66 on the fields. -/
def decodeFields (f : Fields) : Except Illegal Instr :=
  if f.z = 0 then
    match f.op.toNat with
    | 1 => decodeU .rotl f
    | 2 => decodeU .rotr f
    | 3 => decodeB .xork f
    | 4 => decodeU .trsp f
    | 5 => decodeU .enc f
    | 6 => decodeU .dec f
    | 7 => decodeP .rk3 f
    | 8 => decodeP .atk f
    | _ => .error .reservedOpcode
  else .error .zNotZero

/-- The decoder (R66). -/
def decode (w : CmdWord) : Except Illegal Instr :=
  decodeFields (Fields.ofWord w)

/-- The fields a command is written in (R63 to R65). -/
def Instr.fields : Instr → Fields
  | .rotl rd rs1 => ⟨1#4, rd.sel, rs1.sel, 0#3, 0#3⟩
  | .rotr rd rs1 => ⟨2#4, rd.sel, rs1.sel, 0#3, 0#3⟩
  | .xork rd rs1 rs2 => ⟨3#4, rd.sel, rs1.sel, rs2.sel, 0#3⟩
  | .trsp rd rs1 => ⟨4#4, rd.sel, rs1.sel, 0#3, 0#3⟩
  | .enc rd rs1 => ⟨5#4, rd.sel, rs1.sel, 0#3, 0#3⟩
  | .dec rd rs1 => ⟨6#4, rd.sel, rs1.sel, 0#3, 0#3⟩
  | .rk3 rs1 rs2 => ⟨7#4, 0#3, rs1.sel, rs2.sel, 0#3⟩
  | .atk rs1 rs2 => ⟨8#4, 0#3, rs1.sel, rs2.sel, 0#3⟩

/-- The encoder (R62 to R65). Every `Instr` is well formed, so it is total. -/
def encode (i : Instr) : CmdWord :=
  i.fields.toWord

/-- The command whose bits are `w`, of `nbits` bits; the bits above `nbits` are zero. A command word is one 16-bit word
(R61), carried as a number with bit 0 the least significant (R34), so a longer instruction does not exist. -/
def decodeTableWord (nbits w : Nat) : Option Instr :=
  if nbits ≤ 16 then
    match decode (BitVec.ofNat 16 (w % 2 ^ nbits)) with
    | .ok i => some i
    | .error _ => none
  else none

end Sys2Proof
end

