-- ==== Sys2Proof/Machine/State.lean ====
section
/-! DEFINITION. State: what BPXM holds (R11), as plain data, with the machine right after reset (R191), and the request and
response of one transaction (R32, R35). -/

namespace Sys2Proof.Machine

/-- The four fault causes (R161). They are recorded in the state; none of them stops the machine. -/
inductive Cause where
  /-- `E_ILLEGAL`: a CMD with an illegal word (R167). -/
  | illegal
  /-- `E_UNINIT`: a legal command with an invalid source register (R165). -/
  | uninit
  /-- `E_RDUNINIT`: an RD of an invalid register (R46). -/
  | rdUninit
  /-- `E_BADSEL`: a WR or RD with select 7 (R45). -/
  | badSel
  deriving DecidableEq, Repr

/-- The fault record while `FAULT` is 1 (R20, R163): `CAUSE` and `FINFO`. -/
structure FaultRecord where
  cause : Cause
  info : BitVec 16
  deriving DecidableEq, Repr

/-- What the host drives on the request ports for one request (R32): `req_kind`, `req_sel`, `req_data`. -/
structure Request where
  kind : BitVec 2
  sel : Sel
  data : Data
  deriving DecidableEq, Repr

/-- What BPXM answers to one request (R35): `rsp_data`, `rsp_err`. -/
structure Response where
  data : Data
  err : Bool
  deriving DecidableEq, Repr

/-- One input of a step: a request, or the reset input (R24, R190). -/
inductive Event where
  | request (r : Request)
  | reset
  deriving DecidableEq, Repr

/-- The state. `regs` and `fault` are the complete architectural state of R11. `rsp` is the response of the last transaction,
the second result of a step (R35). `inputs` is the model's own field: what the host will present next, oldest first (R24, R36),
since the fixed form of `step` has no argument for it (log entry 2, DESIGN CHOICE). -/
structure State where
  /-- The block registers in select order (R12); `none` is an invalid register (R14, R15). -/
  regs : Vector (Option Block) 7
  /-- The fault record; `none` is `FAULT` = 0 (R20). -/
  fault : Option FaultRecord
  /-- The response on the response ports; `none` is `rsp_valid` = 0 (R32, R35). -/
  rsp : Option Response
  /-- The host's requests and resets still to come (R24); the model's own field. -/
  inputs : List Event
  deriving DecidableEq, Repr

/-- Why a step stops the machine: never. Every fault of R161 is recorded in the state and answered (R163), and the step is
total (R35), so this type has no constructor. Safe: nothing can be stopped by it. -/
inductive Fault where
  deriving DecidableEq, Repr

/-- Why an instruction has no meaning in the model. -/
inductive Refusal where
  /-- Raised by an arm of `exec` for an instruction that has no meaning yet; safe. No arm of this model raises it. -/
  | notModelled (mnemonic : String)
  deriving DecidableEq, Repr

/-- The reset state (R191): every register invalid, no fault recorded, no response; and nothing presented yet. -/
def State.reset : State where
  regs := Vector.replicate 7 none
  fault := none
  rsp := none
  inputs := []

end Sys2Proof.Machine
end

