-- ==== Sys2Proof/Machine/Ops.lean ====
section
/-! DEFINITION. Ops: the named operations every transaction is made of: reading and writing a block register, laying a block on
the data path (R34), answering, being refused (R42), raising a fault (R163), being idle (R174), and reset (R190). BPXM has no
memory (R11, R31), so there are no operations over memory. -/

namespace Sys2Proof.Machine

/-- The place of a register in the state: its select (R12). -/
def regIndex (r : Reg) : Fin 7 :=
  ⟨r.sel.toNat, by cases r <;> decide⟩

/-- The contents of a register, `none` when its valid bit is 0 (R14). -/
def State.reg (s : State) (r : Reg) : Option Block :=
  s.regs[regIndex r]

/-- `valid[i]` (R14). -/
def State.valid (s : State) (r : Reg) : Bool :=
  (s.reg r).isSome

/-- `FAULT` (R20). -/
def State.faulted (s : State) : Bool :=
  s.fault.isSome

/-- `x[i] <- v` (R8): writes the whole block and sets the valid bit. -/
def State.write (s : State) (r : Reg) (v : Block) : State :=
  { s with regs := s.regs.set (regIndex r) (some v) }

/-- The field `v` on bits `lo` and up of an `m`-bit word, zeros elsewhere. -/
def placeAt {n : Nat} (m lo : Nat) (v : BitVec n) : BitVec m :=
  v.setWidth m <<< lo

/-- Byte `j` of the block on bits `8j+7 : 8j` of the data path (R34). -/
def blockToData (b : Block) : Data :=
  placeAt 128 0 b[0] ||| placeAt 128 8 b[1] ||| placeAt 128 16 b[2] ||| placeAt 128 24 b[3] |||
  placeAt 128 32 b[4] ||| placeAt 128 40 b[5] ||| placeAt 128 48 b[6] ||| placeAt 128 56 b[7] |||
  placeAt 128 64 b[8] ||| placeAt 128 72 b[9] ||| placeAt 128 80 b[10] ||| placeAt 128 88 b[11] |||
  placeAt 128 96 b[12] ||| placeAt 128 104 b[13] ||| placeAt 128 112 b[14] ||| placeAt 128 120 b[15]

/-- The block on the data path (R34). -/
def blockOfData (d : Data) : Block :=
  Vector.ofFn fun j => d.extractLsb' (8 * j.val) 8

/-- Answer the transaction; nothing else changes (R35). -/
def respond (d : Data) (err : Bool) (s : State) : State :=
  { s with rsp := some ⟨d, err⟩ }

/-- The answer of a WR or a command that completed: data 0, err 0 (R43, R48). -/
def complete (s : State) : State :=
  respond 0 false s

/-- R42: a transaction refused because `FAULT` is 1 changes nothing and answers data 0, err 1. -/
def refuse (s : State) : State :=
  respond 0 true s

/-- R163, the whole of fault entry: record cause and information, write no register, answer data 0, err 1. It is run only
while `FAULT` is 0 (R42, R168); there is no return from it but reset (R169). -/
def raise (c : Cause) (info : BitVec 16) (s : State) : State :=
  { s with fault := some ⟨c, info⟩, rsp := some ⟨0, true⟩ }

/-- R174: with no request presented all state is held and no response is given. -/
def idle (s : State) : State :=
  { s with rsp := none }

/-- R190: the state becomes the reset state whatever it was; what the host presents afterwards is not the machine's to
discard. -/
def resetMachine (s : State) : State :=
  { State.reset with inputs := s.inputs }

end Sys2Proof.Machine
end

