-- ==== Sys2Proof/Machine/Operands.lean ====
section
/-! DEFINITION. Operands: the operand forms of a command, reading its sources (R165) before anything is written (R75), and the
one shape every command has (R48). -/

namespace Sys2Proof.Machine

/-- A source operand: the block, or `none` when the register is invalid (R14). -/
def State.source (s : State) (r : Reg) : Option Block :=
  s.reg r

/-- Two explicit sources, `rs1` then `rs2`. -/
def State.sources2 (s : State) (rs1 rs2 : Reg) : Option (Block × Block) := do
  let v1 ← s.source rs1
  let v2 ← s.source rs2
  return (v1, v2)

/-- The attacker's keys K1 and K2, the implicit sources of RK3 (R142). -/
def State.keys2 (s : State) : Option (Block × Block) :=
  s.sources2 .k1 .k2

/-- The Key Material K1, K2, K3, the implicit sources of ENC and DEC (R122, R123). -/
def State.keys3 (s : State) : Option (Block × Block × Block) := do
  let a ← s.source .k1
  let b ← s.source .k2
  let c ← s.source .k3
  return (a, b, c)

/-- The source registers of a command, explicit first, then implicit (R13, R165). -/
def sourceRegs : Instr → List Reg
  | .rotl _ rs1 => [rs1]
  | .rotr _ rs1 => [rs1]
  | .xork _ rs1 rs2 => [rs1, rs2]
  | .trsp _ rs1 => [rs1]
  | .enc _ rs1 => [rs1, .k1, .k2, .k3]
  | .dec _ rs1 => [rs1, .k1, .k2, .k3]
  | .rk3 rs1 rs2 => [rs1, rs2, .k1, .k2]
  | .atk rs1 rs2 => [rs1, rs2]

/-- The destination registers of a command (R13). -/
def destRegs : Instr → List Reg
  | .rotl rd _ => [rd]
  | .rotr rd _ => [rd]
  | .xork rd _ _ => [rd]
  | .trsp rd _ => [rd]
  | .enc rd _ => [rd]
  | .dec rd _ => [rd]
  | .rk3 _ _ => [.k3]
  | .atk _ _ => [.k1, .k2, .k3]

/-- The shape of every command (R48, R168). `result` is the state with the destinations written, computed from the sources of
`s`, or `none` when some source is invalid. A faulted machine refuses; an invalid source raises `E_UNINIT` with the command
word; otherwise the command completes. (A step refuses before it decodes, R42; the refusal stands here
as well so that a command means the same in every state, log entry 8.) -/
def runCommand (w : CmdWord) (s : State) (result : Option State) : Host.Outcome State Fault Refusal :=
  if s.faulted then .next (refuse s)
  else
    match result with
    | none => .next (raise .uninit w s)
    | some t => .next (complete t)

end Sys2Proof.Machine
end

