-- ==== Sys2Proof/Machine/Attack.lean ====
section
/-! DEFINITION. Attack: the commands of the Key-Recovery Attack, RK3 and ATK (R142, R143). -/

namespace Sys2Proof.Machine

/-- R142. -/
def execRk3 (rs1 rs2 : Reg) (s : State) : Host.Outcome State Fault Refusal :=
  runCommand (encode (.rk3 rs1 rs2)) s do
    let (p, c) ← s.sources2 rs1 rs2
    let (a, b) ← s.keys2
    return s.write .k3 (recoverKey3 p c a b)

/-- R143. -/
def execAtk (rs1 rs2 : Reg) (s : State) : Host.Outcome State Fault Refusal :=
  runCommand (encode (.atk rs1 rs2)) s do
    let (p, c) ← s.sources2 rs1 rs2
    let a := constBlock Config.atkKey1Fill
    let b := constBlock Config.atkKey2Fill
    return ((s.write .k1 a).write .k2 b).write .k3 (recoverKey3 p c a b)

end Sys2Proof.Machine
end

