-- ==== Sys2Proof/Machine/Cipher.lean ====
section
/-! DEFINITION. Cipher: the commands of the Cipher Engine, ENC and DEC (R122, R123). -/

namespace Sys2Proof.Machine

/-- R122. -/
def execEnc (rd rs1 : Reg) (s : State) : Host.Outcome State Fault Refusal :=
  runCommand (encode (.enc rd rs1)) s do
    let v ← s.source rs1
    let (a, b, c) ← s.keys3
    return s.write rd (encrypt v a b c)

/-- R123. -/
def execDec (rd rs1 : Reg) (s : State) : Host.Outcome State Fault Refusal :=
  runCommand (encode (.dec rd rs1)) s do
    let v ← s.source rs1
    let (a, b, c) ← s.keys3
    return s.write rd (decrypt v a b c)

end Sys2Proof.Machine
end

