-- ==== Sys2Proof/Machine/Codec.lean ====
section
/-! DEFINITION. Codec: the commands of the Block Codec, ROTL, ROTR and XORK (R93 to R95). -/

namespace Sys2Proof.Machine

/-- R93. -/
def execRotl (rd rs1 : Reg) (s : State) : Host.Outcome State Fault Refusal :=
  runCommand (encode (.rotl rd rs1)) s do
    let v ← s.source rs1
    return s.write rd (rotateRowsLeft v)

/-- R94. -/
def execRotr (rd rs1 : Reg) (s : State) : Host.Outcome State Fault Refusal :=
  runCommand (encode (.rotr rd rs1)) s do
    let v ← s.source rs1
    return s.write rd (rotateRowsRight v)

/-- R95. -/
def execXork (rd rs1 rs2 : Reg) (s : State) : Host.Outcome State Fault Refusal :=
  runCommand (encode (.xork rd rs1 rs2)) s do
    let (v, k) ← s.sources2 rs1 rs2
    return s.write rd (xorWithKey v k)

end Sys2Proof.Machine
end

