-- ==== Sys2Proof/Machine/Layout.lean ====
section
/-! DEFINITION. Layout: the command of the Block Layout Transform, TRSP (R111). -/

namespace Sys2Proof.Machine

/-- R111. -/
def execTrsp (rd rs1 : Reg) (s : State) : Host.Outcome State Fault Refusal :=
  runCommand (encode (.trsp rd rs1)) s do
    let v ← s.source rs1
    return s.write rd (transpose v)

end Sys2Proof.Machine
end

