-- ==== Sys2Proof/Machine/Dispatch.lean ====
section
/-! DEFINITION. Dispatch: one arm per command. -/

namespace Sys2Proof.Machine

def exec (i : Instr) (s : State) : Host.Outcome State Fault Refusal :=
  match i with
  | .rotl rd rs1 => Sys2Proof.Machine.execRotl rd rs1 s
  | .rotr rd rs1 => Sys2Proof.Machine.execRotr rd rs1 s
  | .xork rd rs1 rs2 => Sys2Proof.Machine.execXork rd rs1 rs2 s
  | .trsp rd rs1 => Sys2Proof.Machine.execTrsp rd rs1 s
  | .enc rd rs1 => Sys2Proof.Machine.execEnc rd rs1 s
  | .dec rd rs1 => Sys2Proof.Machine.execDec rd rs1 s
  | .rk3 rs1 rs2 => Sys2Proof.Machine.execRk3 rs1 rs2 s
  | .atk rs1 rs2 => Sys2Proof.Machine.execAtk rs1 rs2 s

end Sys2Proof.Machine
end

