-- ==== Sys2Proof/Machine/Flags.lean ====
section
/-! DEFINITION. Flags: BPXM has no condition codes and no command writes a flag (R18). What a host can read of the machine's
condition is the STATUS word (R19), computed here from the state. -/

namespace Sys2Proof.Machine

/-- The code of a cause (R161). -/
def causeCode : Cause → BitVec 3
  | .illegal => 1
  | .uninit => 2
  | .rdUninit => 3
  | .badSel => 4

/-- `CAUSE` (R19): 0 when no fault is recorded. -/
def causeField (s : State) : BitVec 3 :=
  match s.fault with
  | none => 0
  | some f => causeCode f.cause

/-- `FINFO` (R19): 0 when no fault is recorded. -/
def finfoField (s : State) : BitVec 16 :=
  match s.fault with
  | none => 0
  | some f => f.info

/-- `VALID` (R19): bit i is the valid bit of the register with select i. -/
def validField (s : State) : BitVec 7 :=
  placeAt 7 0 (BitVec.ofBool (s.valid .d0)) ||| placeAt 7 1 (BitVec.ofBool (s.valid .d1)) |||
  placeAt 7 2 (BitVec.ofBool (s.valid .d2)) ||| placeAt 7 3 (BitVec.ofBool (s.valid .d3)) |||
  placeAt 7 4 (BitVec.ofBool (s.valid .k1)) ||| placeAt 7 5 (BitVec.ofBool (s.valid .k2)) |||
  placeAt 7 6 (BitVec.ofBool (s.valid .k3))

/-- `STATUS = {FINFO, 0000, FAULT, CAUSE, 0, VALID}` (R19): `FINFO` from bit 16, `FAULT` at bit 11, `CAUSE` from bit 8,
`VALID` from bit 0; the reserved bits 15:12 and 7 read 0. -/
def statusWord (s : State) : StatusWord :=
  placeAt 32 16 (finfoField s) ||| placeAt 32 11 (BitVec.ofBool s.faulted) ||| placeAt 32 8 (causeField s) |||
  placeAt 32 0 (validField s)

end Sys2Proof.Machine
end

