-- ==== Sys2Proof/Machine/Transact.lean ====
section
/-! DEFINITION. Transact: the four kinds of host transaction (R35, R42 to R48, R168) and how a request on the ports is read as
one (R32). -/

namespace Sys2Proof.Machine

/-- A transaction, without the request bits its kind ignores (R32, D29, U13). -/
inductive Txn where
  | cmd (w : CmdWord)
  | wr (sel : Sel) (v : Block)
  | rd (sel : Sel)
  | stat
  deriving DecidableEq, Repr

/-- The transaction a request asks for (R32): `req_kind` 0 CMD, 1 WR, 2 RD, 3 STAT. -/
def requestTxn (r : Request) : Txn :=
  match r.kind.toNat with
  | 0 => .cmd (r.data.extractLsb' 0 16)
  | 1 => .wr r.sel (blockOfData r.data)
  | 2 => .rd r.sel
  | _ => .stat

/-- The request that carries a command word (R48): the ignored bits are 0. -/
def commandRequest (w : CmdWord) : Request :=
  ⟨0#2, 0#3, w.setWidth 128⟩

/-- The request of a WR (R43). -/
def writeRequest (sel : Sel) (v : Block) : Request :=
  ⟨1#2, sel, blockToData v⟩

/-- The request of an RD (R44): the ignored bits are 0. -/
def readRequest (sel : Sel) : Request :=
  ⟨2#2, sel, 0#128⟩

/-- The request of a STAT (R47): the ignored bits are 0. -/
def statusRequest : Request :=
  ⟨3#2, 0#3, 0#128⟩

/-- CMD (R48): refusal, then legality, then the command itself. -/
def command (w : CmdWord) (s : State) : Host.Outcome State Fault Refusal :=
  if s.faulted then .next (refuse s)
  else
    match decode w with
    | .error _ => .next (raise .illegal w s)
    | .ok i => exec i s

/-- WR (R43, R45). -/
def writeBlock (sel : Sel) (v : Block) (s : State) : Host.Outcome State Fault Refusal :=
  if s.faulted then .next (refuse s)
  else
    match Reg.ofSel sel with
    | none => .next (raise .badSel (sel.setWidth 16) s)
    | some r => .next (complete (s.write r v))

/-- RD (R44 to R46). -/
def readBlock (sel : Sel) (s : State) : Host.Outcome State Fault Refusal :=
  if s.faulted then .next (refuse s)
  else
    match Reg.ofSel sel with
    | none => .next (raise .badSel (sel.setWidth 16) s)
    | some r =>
      match s.reg r with
      | none => .next (raise .rdUninit (sel.setWidth 16) s)
      | some v => .next (respond (blockToData v) false s)

/-- STAT (R47): never refused, changes no state. -/
def readStatus (s : State) : Host.Outcome State Fault Refusal :=
  .next (respond ((statusWord s).setWidth 128) false s)

/-- One transaction (R35). -/
def transact (t : Txn) (s : State) : Host.Outcome State Fault Refusal :=
  match t with
  | .cmd w => command w s
  | .wr sel v => writeBlock sel v s
  | .rd sel => readBlock sel s
  | .stat => readStatus s

/-- One input of the machine: a request, or reset (R190). -/
def runEvent (e : Event) (s : State) : Host.Outcome State Fault Refusal :=
  match e with
  | .request r => transact (requestTxn r) s
  | .reset => .next (resetMachine s)

end Sys2Proof.Machine
end

