-- ==== Sys2Proof/Machine/Step.lean ====
section
/-! DEFINITION. Step: one step takes the oldest input the host presents and runs it (R35, R36, R190); with none the machine is
idle (R174). -/

namespace Sys2Proof.Machine

/-- One step (R35, R36). -/
def step (s : State) : Host.Outcome State Fault Refusal :=
  match s.inputs with
  | [] => .next (idle s)
  | e :: rest => runEvent e { s with inputs := rest }

/-- The host presents, ahead of everything else, a CMD transaction whose word is `w` (its bits above `nbits` zero); the next
step runs it. BPXM fetches no instructions (R17): a command comes to run by being presented (log entry 2). -/
def State.withFetchWord (s : State) (nbits w : Nat) : State :=
  { s with inputs := .request (commandRequest (BitVec.ofNat 16 (w % 2 ^ nbits))) :: s.inputs }

end Sys2Proof.Machine
end

