-- ==== Sys2Proof/Machine/Clocked.lean ====
section
/-! DEFINITION. Clocked: the request channel of R32 edge by edge: acceptance, one request in progress at a time, a response
visible for exactly one cycle, and a reset that abandons a request in progress (R41, R190, R193, U16). The machine itself works on
whole transactions (R35); this wrapper runs the same `transact`, and how many cycles a request takes is an input of each edge,
since the spec leaves it free (R204; log entry 4), but for the least number, which is the model's choice (log entry 14). -/

namespace Sys2Proof.Machine

/-- The input ports sampled at a rising edge of `clk` (R32). -/
structure Pins where
  rst : Bool
  reqValid : Bool
  req : Request
  deriving DecidableEq, Repr

/-- BPXM between two edges: the machine, and the request accepted and not yet answered. -/
structure Clocked where
  core : State
  inFlight : Option Request
  deriving DecidableEq, Repr

/-- After reset (R191): `req_ready` is 1, `rsp_valid` is 0. -/
def Clocked.afterReset : Clocked := ⟨State.reset, none⟩

/-- `rsp_valid` (R32): the response stands on the ports, in the one cycle after the request is answered. -/
def Clocked.rspValid (c : Clocked) : Bool :=
  c.inFlight.isNone && c.core.rsp.isSome

/-- `req_ready` (R32, U16): no request in progress, no response in this cycle, and `rst` low. -/
def Clocked.reqReady (c : Clocked) (rst : Bool) : Bool :=
  c.inFlight.isNone && c.core.rsp.isNone && !rst

/-- One rising edge. `done` says whether the request in progress is answered at this edge; it is the implementation's, and it
is not looked at when no request is in progress. DESIGN CHOICE (log entry 14): the edge that accepts a request never answers it,
so at least one cycle with the request in progress lies between the accepting cycle and the response; U8 leaves the latency free
from one cycle up, and a response in the cycle right after the accepting one is not shown. -/
def Clocked.edge (c : Clocked) (p : Pins) (done : Bool) : Host.Outcome Clocked Fault Refusal :=
  if p.rst then .next ⟨resetMachine c.core, none⟩
  else
    match c.inFlight with
    | some r =>
      if done then
        match transact (requestTxn r) c.core with
        | .next t => .next ⟨t, none⟩
        | .fault f => .fault f
        | .refused q => .refused q
      else .next c
    | none =>
      if c.reqReady false && p.reqValid then .next ⟨c.core, some p.req⟩
      else .next ⟨idle c.core, none⟩

end Sys2Proof.Machine
end

