-- ==== Sys2Proof/Machine/Assembler.lean ====
section
/-! DEFINITION. Assembler: the line notation of R78, the pseudo-instructions of R79 and what each line presents to the machine.
This is notation for the host; BPXM sees only the expanded commands. -/

namespace Sys2Proof.Machine

/-- The pseudo-instructions (R79). -/
inductive Pseudo where
  | ldkf
  | stkf
  | encf (rd rs1 : Reg)
  | decf (rd rs1 : Reg)
  deriving DecidableEq, Repr

/-- The fixed sequence a pseudo-instruction stands for (R79). -/
def expand : Pseudo → List Instr
  | .ldkf => [.trsp .k1 .d0, .trsp .k2 .d1, .trsp .k3 .d2]
  | .stkf => [.trsp .d0 .k1, .trsp .d1 .k2, .trsp .d2 .k3]
  | .encf rd rs1 => [.trsp rd rs1, .enc rd rd, .trsp rd rd]
  | .decf rd rs1 => [.trsp rd rs1, .dec rd rd, .trsp rd rd]

/-- A sequence of commands, one after another (R36). -/
def execAll : List Instr → State → Host.Outcome State Fault Refusal
  | [], s => .next s
  | i :: is, s =>
    match exec i s with
    | .next t => execAll is t
    | .fault f => .fault f
    | .refused r => .refused r

/-- A line of the notation (R78). -/
inductive Line where
  | command (i : Instr)
  | wr (r : Reg) (v : Block)
  | rd (r : Reg)
  | stat
  | cmd (w : CmdWord)
  | reset
  | pseudo (p : Pseudo)
  deriving DecidableEq, Repr

/-- A command line is a CMD transaction with the command's word (R78). -/
def commandEvent (i : Instr) : Event :=
  .request (commandRequest (encode i))

/-- What the host presents for a line (R78, R79). -/
def lineEvents : Line → List Event
  | .command i => [commandEvent i]
  | .wr r v => [.request (writeRequest r.sel v)]
  | .rd r => [.request (readRequest r.sel)]
  | .stat => [.request statusRequest]
  | .cmd w => [.request (commandRequest w)]
  | .reset => [.reset]
  | .pseudo p => (expand p).map commandEvent

/-- The name of a register (R12, R78). -/
def regText : Reg → String
  | .d0 => "D0"
  | .d1 => "D1"
  | .d2 => "D2"
  | .d3 => "D3"
  | .k1 => "K1"
  | .k2 => "K2"
  | .k3 => "K3"

/-- Two registers with the comma R78 puts between them. -/
def regsText2 (a b : Reg) : String := regText a ++ ", " ++ regText b

/-- A command in the notation, destination first (R78). -/
def instrText : Instr → String
  | .rotl rd rs1 => "ROTL " ++ regsText2 rd rs1
  | .rotr rd rs1 => "ROTR " ++ regsText2 rd rs1
  | .xork rd rs1 rs2 => "XORK " ++ regsText2 rd rs1 ++ ", " ++ regText rs2
  | .trsp rd rs1 => "TRSP " ++ regsText2 rd rs1
  | .enc rd rs1 => "ENC " ++ regsText2 rd rs1
  | .dec rd rs1 => "DEC " ++ regsText2 rd rs1
  | .rk3 rs1 rs2 => "RK3 " ++ regsText2 rs1 rs2
  | .atk rs1 rs2 => "ATK " ++ regsText2 rs1 rs2

/-- A pseudo-instruction in the notation (R79). -/
def pseudoText : Pseudo → String
  | .ldkf => "LDKF"
  | .stkf => "STKF"
  | .encf rd rs1 => "ENCF " ++ regsText2 rd rs1
  | .decf rd rs1 => "DECF " ++ regsText2 rd rs1

/-- A hexadecimal digit, upper case as R8 writes blocks. -/
def hexDigit (n : BitVec 4) : String :=
  match n.toNat with
  | 0 => "0" | 1 => "1" | 2 => "2" | 3 => "3" | 4 => "4" | 5 => "5" | 6 => "6" | 7 => "7"
  | 8 => "8" | 9 => "9" | 10 => "A" | 11 => "B" | 12 => "C" | 13 => "D" | 14 => "E" | _ => "F"

/-- The two digits of a byte, upper half first. -/
def byteText (b : Byte) : String :=
  hexDigit (b.extractLsb' 4 4) ++ hexDigit (b.extractLsb' 0 4)

/-- A block as 32 digits, byte 0 first (R8, R78). -/
def blockText (b : Block) : String :=
  (b.toList.map byteText).foldl (· ++ ·) ""

/-- A command word as `0x` and four digits (R78). -/
def wordText (w : CmdWord) : String :=
  "0x" ++ byteText (w.extractLsb' 8 8) ++ byteText (w.extractLsb' 0 8)

/-- The text of a line (R78). -/
def lineText : Line → String
  | .command i => instrText i
  | .wr r v => "WR " ++ regText r ++ ", " ++ blockText v
  | .rd r => "RD " ++ regText r
  | .stat => "STAT"
  | .cmd w => "CMD " ++ wordText w
  | .reset => "RESET"
  | .pseudo p => pseudoText p

end Sys2Proof.Machine
end

