-- ==== Sys2Proof/Machine/FileFlow.lean ====
section
/-! DEFINITION. FileFlow: what the source's file-level flows compute (R125, R126, R145) and the orders of work R194 prescribes
for the host, as lines of R78's notation. BPXM has no notion of a file; these say what its commands are composed to. -/

namespace Sys2Proof.Machine

/-- R125: the round keys of a key file whose blocks in file order are `f0`, `f1`, `f2`. -/
def keysOfKeyFile (f0 f1 f2 : Block) : Block × Block × Block :=
  (transpose f0, transpose f1, transpose f2)

/-- R145: the key-file blocks of a key triple. -/
def keyFileOfKeys (key1 key2 key3 : Block) : Block × Block × Block :=
  (transpose key1, transpose key2, transpose key3)

/-- `FileEnc` (R126): one message block in file order under a key file. -/
def fileEncrypt (f f0 f1 f2 : Block) : Block :=
  transpose (encrypt (transpose f) (transpose f0) (transpose f1) (transpose f2))

/-- `FileDec` (R126). -/
def fileDecrypt (g f0 f1 f2 : Block) : Block :=
  transpose (decrypt (transpose g) (transpose f0) (transpose f1) (transpose f2))

/-- R194 item 2: load the key material from a key file in file order. -/
def loadKeyFileLines (f0 f1 f2 : Block) : List Line :=
  [.wr .d0 f0, .wr .d1 f1, .wr .d2 f2, .pseudo .ldkf]

/-- R194 item 3: encrypt one message block in place in register `dn`. -/
def encryptBlockLines (dn : Reg) (f : Block) : List Line :=
  [.wr dn f, .pseudo (.encf dn dn), .rd dn]

/-- R194 item 3: decrypt one message block in place in register `dn`. -/
def decryptBlockLines (dn : Reg) (g : Block) : List Line :=
  [.wr dn g, .pseudo (.decf dn dn), .rd dn]

/-- R194 item 4: the attack on a message block and a cipher block in file order. -/
def attackLines (m c : Block) : List Line :=
  [.wr .d0 m, .wr .d1 c, .command (.trsp .d0 .d0), .command (.trsp .d1 .d1), .command (.atk .d0 .d1),
    .pseudo .stkf, .rd .d0, .rd .d1, .rd .d2]

end Sys2Proof.Machine
end

