-- ==== Sys2Proof/Safety.lean ====
section
/-! DEFINITION. Safety: the terms the statements use: what a completed command may have changed, which input writes which
register, and the invariant that says a recorded fault is explained by the state. -/

namespace Sys2Proof.Machine

/-- The frame of a command or WR that completed without fault (R13, R18, R48): only the registers in `ds` may differ, no fault
is recorded or lost, the host's further inputs stand, and the answer is data 0, err 0. -/
def CompletedWriting (ds : List Reg) (s t : State) : Prop :=
  (∀ r, r ∉ ds → t.reg r = s.reg r) ∧ t.fault = s.fault ∧ t.inputs = s.inputs ∧ t.rsp = some ⟨0, false⟩

/-- The whole effect of a fault (R163): the record and the answer, nothing else. -/
def FaultRaised (c : Cause) (info : BitVec 16) (s t : State) : Prop :=
  (∀ r, t.reg r = s.reg r) ∧ t.fault = some ⟨c, info⟩ ∧ t.inputs = s.inputs ∧ t.rsp = some ⟨0, true⟩

/-- A recorded fault is explained by the state (R161, R162, R164, R165): an `E_ILLEGAL` word is illegal; an `E_UNINIT` word is legal
and one of its sources is invalid; an `E_RDUNINIT` select names an invalid register; `E_BADSEL` carries 7. -/
def State.faultExplained (s : State) : Bool :=
  match s.fault with
  | none => true
  | some ⟨.illegal, w⟩ =>
    match decode w with
    | .error _ => true
    | .ok _ => false
  | some ⟨.uninit, w⟩ =>
    match decode w with
    | .error _ => false
    | .ok i => (sourceRegs i).any fun r => !s.valid r
  | some ⟨.rdUninit, n⟩ =>
    match Reg.ofSel (n.setWidth 3) with
    | none => false
    | some r => n == r.sel.setWidth 16 && !s.valid r
  | some ⟨.badSel, n⟩ => n == 7

/-- A response with err 1 carries the zero filler and is given only by a faulted machine (R42, R46, R163). -/
def State.responseExplained (s : State) : Bool :=
  match s.rsp with
  | none => true
  | some a => !a.err || (a.data == 0 && s.faulted)

/-- The invariant of the machine. -/
def State.Inv (s : State) : Prop :=
  s.faultExplained = true ∧ s.responseExplained = true

/-- `n` steps of the machine, one after another (R36). -/
def runSteps : Nat → State → Host.Outcome State Fault Refusal
  | 0, s => .next s
  | n + 1, s =>
    match step s with
    | .next t => runSteps n t
    | .fault f => .fault f
    | .refused r => .refused r

/-- The input writes register `r` if it is accepted (R53): reset, a WR of `r`, or a legal command with destination `r`. -/
def eventWrites (e : Event) (r : Reg) : Bool :=
  match e with
  | .reset => true
  | .request q =>
    match requestTxn q with
    | .cmd w =>
      match decode w with
      | .error _ => false
      | .ok i => (destRegs i).contains r
    | .wr sel _ => Reg.ofSel sel == some r
    | .rd _ => false
    | .stat => false

end Sys2Proof.Machine
end

