-- ==== Sys2Proof/Certificates/Slice0/Obligations.lean ====
section
/-! DEFINITION. Obligations: the statements for the provers, from the numbered rules of spec/. Each docstring names the rules.
A rule or part of a rule that spec/ marks as its own inference ("[derived: …]") is only ever the ground of a statement with
basis `derived`. -/

open Sys2Proof Sys2Proof.Machine

/-! ### Encoding -/

/-- R62, R66: decoding the word of any command gives the command back, with every operand at every value. -/
def Obligations.DecodeOfEncode : Prop :=
  ∀ i : Instr, decode (encode i) = .ok i

/-- R66, last sentence: encoding is the inverse on legal words, and two different legal words never decode to the same
command. -/
def Obligations.EncodeOfDecode : Prop :=
  (∀ (w : CmdWord) (i : Instr), decode w = .ok i → encode i = w) ∧
  (∀ (v w : CmdWord) (i : Instr), decode v = .ok i → decode w = .ok i → v = w)

/-- R62: the command word is `{op, rd, rs1, rs2, z}`, that is `op*4096 + rd*512 + rs1*64 + rs2*8 + z`, and `z` of every
command is 000. -/
def Obligations.CommandWordLayout : Prop :=
  (∀ f : Fields, f.toWord.toNat =
    f.op.toNat * 4096 + f.rd.toNat * 512 + f.rs1.toNat * 64 + f.rs2.toNat * 8 + f.z.toNat) ∧
  (∀ f : Fields, Fields.ofWord f.toWord = f) ∧
  (∀ w : CmdWord, (Fields.ofWord w).toWord = w) ∧
  (∀ i : Instr, encode i = i.fields.toWord ∧ i.fields.z = 0)

/-- R64: a word decodes to a command exactly when it matches the row's mask and match and its used fields name the command's
registers; every other opcode is illegal; the eight (mask, match) pairs are disjoint. -/
def Obligations.DecodeSelectsTheOpcodeRow : Prop :=
  (∀ (w : CmdWord) (rd rs1 rs2 : Reg),
    let D := w.extractLsb' 9 3 = rd.sel
    let S := w.extractLsb' 6 3 = rs1.sel
    let U := w.extractLsb' 3 3 = rs2.sel
    (decode w = .ok (.rotl rd rs1) ↔ w &&& 0xF03F = 0x1000 ∧ D ∧ S) ∧
    (decode w = .ok (.rotr rd rs1) ↔ w &&& 0xF03F = 0x2000 ∧ D ∧ S) ∧
    (decode w = .ok (.xork rd rs1 rs2) ↔ w &&& 0xF007 = 0x3000 ∧ D ∧ S ∧ U) ∧
    (decode w = .ok (.trsp rd rs1) ↔ w &&& 0xF03F = 0x4000 ∧ D ∧ S) ∧
    (decode w = .ok (.enc rd rs1) ↔ w &&& 0xF03F = 0x5000 ∧ D ∧ S) ∧
    (decode w = .ok (.dec rd rs1) ↔ w &&& 0xF03F = 0x6000 ∧ D ∧ S) ∧
    (decode w = .ok (.rk3 rs1 rs2) ↔ w &&& 0xFE07 = 0x7000 ∧ S ∧ U) ∧
    (decode w = .ok (.atk rs1 rs2) ↔ w &&& 0xFE07 = 0x8000 ∧ S ∧ U)) ∧
  (∀ w : CmdWord, w.extractLsb' 12 4 = 0 ∨ 8 < (w.extractLsb' 12 4).toNat → ∃ e, decode w = .error e) ∧
  ([(0xF03F, 0x1000), (0xF03F, 0x2000), (0xF007, 0x3000), (0xF03F, 0x4000), (0xF03F, 0x5000), (0xF03F, 0x6000),
    (0xFE07, 0x7000), (0xFE07, 0x8000)] : List (CmdWord × CmdWord)).Pairwise
      (fun a b => ∀ w : CmdWord, ¬ (w &&& a.1 = a.2 ∧ w &&& b.1 = b.2))

/-- R71, R72, R73: a word is illegal exactly when its opcode is reserved, a used register field is 7, or a must-be-zero field
is not zero. -/
def Obligations.IllegalWordsAreExactly : Prop :=
  ∀ w : CmdWord,
    let f := Fields.ofWord w
    ((∃ e, decode w = .error e) ↔
      (f.op = 0 ∨ 9 ≤ f.op.toNat) ∨
      (f.op.toNat ∈ [1, 2, 4, 5, 6] ∧ (f.rd = 7 ∨ f.rs1 = 7)) ∨
      (f.op = 3 ∧ (f.rd = 7 ∨ f.rs1 = 7 ∨ f.rs2 = 7)) ∨
      (f.op.toNat ∈ [7, 8] ∧ (f.rs1 = 7 ∨ f.rs2 = 7)) ∨
      f.z ≠ 0 ∨
      (f.op.toNat ∈ [1, 2, 4, 5, 6] ∧ f.rs2 ≠ 0) ∨
      (f.op.toNat ∈ [7, 8] ∧ f.rd ≠ 0))

/-- R63, R66: the decoder accepts exactly the words whose fields are well formed. -/
def Obligations.DecodeAcceptsWellFormedFields : Prop :=
  ∀ w : CmdWord, (∃ i, decode w = .ok i) ↔ (Fields.ofWord w).wellFormed = true

/-- R66: of the 65536 words exactly 686 are legal. -/
def Obligations.LegalWordCount : Prop :=
  ∃ l : List CmdWord, l.Nodup ∧ l.length = 686 ∧ ∀ w, w ∈ l ↔ ∃ i, decode w = .ok i

/-- R80: the worked encodings and their illegal neighbours. -/
def Obligations.WorkedEncodings : Prop :=
  decode 0x1200 = .ok (.rotl .d1 .d0) ∧ decode 0x2440 = .ok (.rotr .d2 .d1) ∧
  decode 0x3460 = .ok (.xork .d2 .d1 .k1) ∧ decode 0x4800 = .ok (.trsp .k1 .d0) ∧
  decode 0x5200 = .ok (.enc .d1 .d0) ∧ decode 0x66C0 = .ok (.dec .d3 .d3) ∧
  decode 0x7008 = .ok (.rk3 .d0 .d1) ∧ decode 0x8008 = .ok (.atk .d0 .d1) ∧
  decode 0x1201 = .error .zNotZero ∧ decode 0x1208 = .error .rs2NotZero ∧ decode 0x1E00 = .error .rdSelect7 ∧
  decode 0x13C0 = .error .rs1Select7 ∧ decode 0x0200 = .error .reservedOpcode ∧
  decode 0x9200 = .error .reservedOpcode ∧ decode 0x7208 = .error .rdNotZero

/-! ### The functions on blocks -/

/-- R90, R91: the byte formulas of the two row rotations and their written-out position lists. -/
def Obligations.RotationFormulas : Prop :=
  ∀ b : Block,
    (∀ i c : Fin 4, (rotateRowsLeft b)[4 * i.val + c.val] = b[4 * i.val + (c.val + i.val) % 4]) ∧
    (∀ i c d : Fin 4, (d.val : Int) = ((c.val : Int) - (i.val : Int)) % 4 →
      (rotateRowsRight b)[4 * i.val + c.val] = b[4 * i.val + d.val]) ∧
    rotateRowsLeft b = #v[b[0], b[1], b[2], b[3], b[5], b[6], b[7], b[4], b[10], b[11], b[8], b[9],
      b[15], b[12], b[13], b[14]] ∧
    rotateRowsRight b = #v[b[0], b[1], b[2], b[3], b[7], b[4], b[5], b[6], b[10], b[11], b[8], b[9],
      b[13], b[14], b[15], b[12]]

/-- R110: the byte formulas of the transpose, its position list, and the diagonal. -/
def Obligations.TransposeFormula : Prop :=
  ∀ b : Block,
    (∀ j : Fin 16, (transpose b)[(j.val % 4) * 4 + j.val / 4] = b[j.val]) ∧
    (∀ a c : Fin 4, (transpose b)[4 * a.val + c.val] = b[4 * c.val + a.val]) ∧
    transpose b = #v[b[0], b[4], b[8], b[12], b[1], b[5], b[9], b[13], b[2], b[6], b[10], b[14],
      b[3], b[7], b[11], b[15]] ∧
    (∀ a : Fin 4, (transpose b)[5 * a.val] = b[5 * a.val])

/-- R113: the transpose is an involution, on one block and on a block sequence (R112). -/
def Obligations.TransposeIsInvolution : Prop :=
  (∀ b : Block, transpose (transpose b) = b) ∧
  (∀ bs : List Block, transposeSequence (transposeSequence bs) = bs) ∧
  (∀ bs : List Block, (transposeSequence bs).length = bs.length)

/-- R98: rotating right undoes rotating left. -/
def Obligations.RotateRightUndoesLeft : Prop :=
  ∀ b : Block, rotateRowsRight (rotateRowsLeft b) = b

/-- R92, R99: XOR with a key is byte-wise, symmetric in its operands, and its own inverse. -/
def Obligations.XorWithKeyLaws : Prop :=
  (∀ (b k : Block) (j : Fin 16), (xorWithKey b k)[j.val] = b[j.val] ^^^ k[j.val]) ∧
  (∀ b k : Block, xorWithKey b k = xorWithKey k b) ∧
  (∀ b k : Block, xorWithKey (xorWithKey b k) k = b)

/-- Section 5 of 40_block_codec.md, which marks it as derived: the left rotation has order four. -/
def Obligations.RotationHasOrderFour : Prop :=
  ∀ b : Block,
    (∀ i c : Fin 4, (rotateRowsLeft (rotateRowsLeft b))[4 * i.val + c.val] = b[4 * i.val + (c.val + 2 * i.val) % 4]) ∧
    rotateRowsLeft (rotateRowsLeft (rotateRowsLeft b)) = rotateRowsRight b ∧
    rotateRowsLeft (rotateRowsLeft (rotateRowsLeft (rotateRowsLeft b))) = b ∧
    rotateRowsRight (rotateRowsRight (rotateRowsRight b)) = rotateRowsLeft b ∧
    rotateRowsRight (rotateRowsRight (rotateRowsRight (rotateRowsRight b))) = b

/-- Section 5 of 40_block_codec.md, which marks it as derived: any power of the rotations and of the transpose distributes over
XOR and fixes constant blocks. -/
def Obligations.PermutationsDistributeOverXor : Prop :=
  ∀ f ∈ [rotateRowsLeft, rotateRowsRight, transpose], ∀ n : Nat,
    (∀ a b : Block, f^[n] (xorWithKey a b) = xorWithKey (f^[n] a) (f^[n] b)) ∧
    (∀ v : Byte, f^[n] (constBlock v) = constBlock v)

/-- R124, first sentence: decryption undoes encryption under the same keys. -/
def Obligations.DecryptUndoesEncrypt : Prop :=
  ∀ b key1 key2 key3 : Block, decrypt (encrypt b key1 key2 key3) key1 key2 key3 = b

/-- The other directions, which 40_block_codec.md section 4 and 42_cipher_engine.md section 3 mark as derived. -/
def Obligations.InversesOnTheOtherSide : Prop :=
  (∀ b : Block, rotateRowsLeft (rotateRowsRight b) = b) ∧
  (∀ b key1 key2 key3 : Block, encrypt (decrypt b key1 key2 key3) key1 key2 key3 = b)

/-- 42_cipher_engine.md section 3, which marks it as derived: the cipher is one fixed rotation and one XOR with the effective
key. -/
def Obligations.CipherClosedForm : Prop :=
  ∀ b key1 key2 key3 : Block,
    let E := xorWithKey (rotateRowsLeft (rotateRowsLeft key1)) (xorWithKey (rotateRowsLeft key2) key3)
    encrypt b key1 key2 key3 = xorWithKey (rotateRowsRight b) E ∧
    decrypt b key1 key2 key3 = rotateRowsLeft (xorWithKey b E)

/-- 43_key_recovery.md section 4, which marks it as derived: for any attacker keys the recovered triple is an equivalent key,
its third key does not depend on the plaintext, and it is the true one exactly under the stated condition. -/
def Obligations.RecoveredTripleIsEquivalentKey : Prop :=
  ∀ p true1 true2 true3 a1 a2 : Block,
    let k3 := recoverKey3 p (encrypt p true1 true2 true3) a1 a2
    let offset1 := rotateRowsLeft (rotateRowsLeft (xorWithKey true1 a1))
    let offset2 := rotateRowsLeft (xorWithKey true2 a2)
    k3 = xorWithKey true3 (xorWithKey offset1 offset2) ∧
    (∀ b : Block, encrypt b a1 a2 k3 = encrypt b true1 true2 true3) ∧
    (∀ b : Block, decrypt b a1 a2 k3 = decrypt b true1 true2 true3) ∧
    (k3 = true3 ↔ offset1 = offset2)

/-- R147: with the reference attacker keys, the recovered triple decrypts the ciphertext of 00..0F back to it. -/
def Obligations.AttackIsSelfConsistent : Prop :=
  ∀ true1 true2 true3 : Block,
    let P : Block := #v[0, 1, 2, 3, 4, 5, 6, 7, 8, 9, 10, 11, 12, 13, 14, 15]
    let C := encrypt P true1 true2 true3
    decrypt C (constBlock 1) (constBlock 0) (recoverKey3 P C (constBlock 1) (constBlock 0)) = P

/-! ### The eight commands: where each completes, with its result and its frame -/

/-- R93, R90, R75: ROTL completes whenever no fault is recorded and its source is valid; `rd` may be `rs1`. -/
def Obligations.RotlCompletes : Prop :=
  ∀ (rd rs1 : Reg) (s : State) (v : Block), s.fault = none → s.reg rs1 = some v →
    ∃ (t : State) (b : Block), exec (.rotl rd rs1) s = .next t ∧ t.reg rd = some b ∧
      (∀ i c : Fin 4, b[4 * i.val + c.val] = v[4 * i.val + (c.val + i.val) % 4]) ∧ CompletedWriting [rd] s t

/-- R94, R91, R75: ROTR likewise. -/
def Obligations.RotrCompletes : Prop :=
  ∀ (rd rs1 : Reg) (s : State) (v : Block), s.fault = none → s.reg rs1 = some v →
    ∃ (t : State) (b : Block), exec (.rotr rd rs1) s = .next t ∧ t.reg rd = some b ∧
      (∀ i c : Fin 4, b[4 * i.val + (c.val + i.val) % 4] = v[4 * i.val + c.val]) ∧ CompletedWriting [rd] s t

/-- R95, R92, R75: XORK completes whenever no fault is recorded and both sources are valid; all three registers may be one. -/
def Obligations.XorkCompletes : Prop :=
  ∀ (rd rs1 rs2 : Reg) (s : State) (v k : Block), s.fault = none → s.reg rs1 = some v → s.reg rs2 = some k →
    ∃ (t : State) (b : Block), exec (.xork rd rs1 rs2) s = .next t ∧ t.reg rd = some b ∧
      (∀ j : Fin 16, b[j.val] = v[j.val] ^^^ k[j.val]) ∧ CompletedWriting [rd] s t

/-- R111, R110, R75: TRSP likewise. -/
def Obligations.TrspCompletes : Prop :=
  ∀ (rd rs1 : Reg) (s : State) (v : Block), s.fault = none → s.reg rs1 = some v →
    ∃ (t : State) (b : Block), exec (.trsp rd rs1) s = .next t ∧ t.reg rd = some b ∧
      (∀ j : Fin 16, b[(j.val % 4) * 4 + j.val / 4] = v[j.val]) ∧ CompletedWriting [rd] s t

/-- R122, R120, R75: ENC completes whenever no fault is recorded and its source and K1, K2, K3 are valid. The three rounds are
given byte by byte; `rd` may be the source or a key register. -/
def Obligations.EncCompletes : Prop :=
  ∀ (rd rs1 : Reg) (s : State) (v key1 key2 key3 : Block), s.fault = none → s.reg rs1 = some v →
    s.reg .k1 = some key1 → s.reg .k2 = some key2 → s.reg .k3 = some key3 →
    ∃ (t : State) (r1 r2 b : Block), exec (.enc rd rs1) s = .next t ∧ t.reg rd = some b ∧
      (∀ i c : Fin 4, r1[4 * i.val + c.val] = v[4 * i.val + (c.val + i.val) % 4] ^^^ key1[4 * i.val + c.val]) ∧
      (∀ i c : Fin 4, r2[4 * i.val + c.val] = r1[4 * i.val + (c.val + i.val) % 4] ^^^ key2[4 * i.val + c.val]) ∧
      (∀ i c : Fin 4, b[4 * i.val + c.val] = r2[4 * i.val + (c.val + i.val) % 4] ^^^ key3[4 * i.val + c.val]) ∧
      CompletedWriting [rd] s t

/-- R123, R121, R75: DEC likewise, the rounds inverted and the keys last to first. -/
def Obligations.DecCompletes : Prop :=
  ∀ (rd rs1 : Reg) (s : State) (v key1 key2 key3 : Block), s.fault = none → s.reg rs1 = some v →
    s.reg .k1 = some key1 → s.reg .k2 = some key2 → s.reg .k3 = some key3 →
    ∃ (t : State) (r2 r1 b : Block), exec (.dec rd rs1) s = .next t ∧ t.reg rd = some b ∧
      (∀ i c : Fin 4, r2[4 * i.val + (c.val + i.val) % 4] = v[4 * i.val + c.val] ^^^ key3[4 * i.val + c.val]) ∧
      (∀ i c : Fin 4, r1[4 * i.val + (c.val + i.val) % 4] = r2[4 * i.val + c.val] ^^^ key2[4 * i.val + c.val]) ∧
      (∀ i c : Fin 4, b[4 * i.val + (c.val + i.val) % 4] = r1[4 * i.val + c.val] ^^^ key1[4 * i.val + c.val]) ∧
      CompletedWriting [rd] s t

/-- R142, R140, R141, R75: RK3 completes whenever no fault is recorded and its two sources and K1, K2 are valid; K3 need not be. -/
def Obligations.Rk3Completes : Prop :=
  ∀ (rs1 rs2 : Reg) (s : State) (p y key1 key2 : Block), s.fault = none → s.reg rs1 = some p → s.reg rs2 = some y →
    s.reg .k1 = some key1 → s.reg .k2 = some key2 →
    ∃ (t : State) (t1 t2 k3 : Block), exec (.rk3 rs1 rs2) s = .next t ∧ t.reg .k3 = some k3 ∧
      (∀ i j : Fin 4, t1[4 * i.val + j.val] = p[4 * i.val + (j.val + i.val) % 4] ^^^ key1[4 * i.val + j.val]) ∧
      (∀ i j : Fin 4, t2[4 * i.val + j.val] = t1[4 * i.val + (j.val + i.val) % 4] ^^^ key2[4 * i.val + j.val]) ∧
      (∀ i j : Fin 4, k3[4 * i.val + j.val] = y[4 * i.val + j.val] ^^^ t2[4 * i.val + (j.val + i.val) % 4]) ∧
      CompletedWriting [.k3] s t

/-- R143, R140, R141, R75: ATK completes whenever no fault is recorded and its two sources are valid; the keys need not be. -/
def Obligations.AtkCompletes : Prop :=
  ∀ (rs1 rs2 : Reg) (s : State) (p y : Block), s.fault = none → s.reg rs1 = some p → s.reg rs2 = some y →
    ∃ (t : State) (key1 key2 t1 t2 k3 : Block), exec (.atk rs1 rs2) s = .next t ∧
      t.reg .k1 = some key1 ∧ t.reg .k2 = some key2 ∧ t.reg .k3 = some k3 ∧
      (∀ j : Fin 16, key1[j.val] = 0x01) ∧ (∀ j : Fin 16, key2[j.val] = 0x00) ∧
      (∀ i j : Fin 4, t1[4 * i.val + j.val] = p[4 * i.val + (j.val + i.val) % 4] ^^^ 0x01) ∧
      (∀ i j : Fin 4, t2[4 * i.val + j.val] = t1[4 * i.val + (j.val + i.val) % 4] ^^^ 0x00) ∧
      (∀ i j : Fin 4, k3[4 * i.val + j.val] = y[4 * i.val + j.val] ^^^ t2[4 * i.val + (j.val + i.val) % 4]) ∧
      CompletedWriting [.k1, .k2, .k3] s t

/-- R143, corner cases: ATK is writing the two constant keys and then RK3, when neither source is K1 or K2. -/
def Obligations.AtkIsKeyWritesThenRk3 : Prop :=
  ∀ (rs1 rs2 : Reg) (s : State), rs1 ≠ .k1 → rs1 ≠ .k2 → rs2 ≠ .k1 → rs2 ≠ .k2 →
    s.fault = none → s.reg rs1 ≠ none → s.reg rs2 ≠ none →
    exec (.atk rs1 rs2) s = exec (.rk3 rs1 rs2) ((s.write .k1 (constBlock 1)).write .k2 (constBlock 0))

/-- R165: which sources each command checks; with one of them invalid it raises `E_UNINIT` with its word and does nothing else,
with all valid it raises nothing, whether its destinations are valid or not. -/
def Obligations.InvalidSourceRaisesUninit : Prop :=
  ∀ (s : State) (rd rs1 rs2 : Reg), s.fault = none →
    let Checked (i : Instr) (rs : List Reg) : Prop :=
      ((∃ r ∈ rs, s.reg r = none) → ∃ t, exec i s = .next t ∧ FaultRaised .uninit (encode i) s t) ∧
      ((∀ r ∈ rs, s.reg r ≠ none) → ∃ t, exec i s = .next t ∧ t.fault = none)
    Checked (.rotl rd rs1) [rs1] ∧ Checked (.rotr rd rs1) [rs1] ∧ Checked (.trsp rd rs1) [rs1] ∧
    Checked (.xork rd rs1 rs2) [rs1, rs2] ∧
    Checked (.enc rd rs1) [rs1, .k1, .k2, .k3] ∧ Checked (.dec rd rs1) [rs1, .k1, .k2, .k3] ∧
    Checked (.rk3 rs1 rs2) [rs1, rs2, .k1, .k2] ∧ Checked (.atk rs1 rs2) [rs1, rs2]

/-- R13, R18, R75: in every state, whatever a command does, only its destination registers may change, and those only to a valid
value; if it changes the fault record it changes no register; the host's further inputs stand. -/
def Obligations.CommandsFrame : Prop :=
  ∀ (i : Instr) (s t : State), exec i s = .next t →
    (∀ r, r ∉ destRegs i → t.reg r = s.reg r) ∧
    (∀ r ∈ destRegs i, t.reg r = s.reg r ∨ t.reg r ≠ none) ∧
    (t.fault ≠ s.fault → ∀ r, t.reg r = s.reg r) ∧
    t.inputs = s.inputs

/-- R23, R127: the outcome of a command depends on nothing but the fault record and its source registers. -/
def Obligations.CommandDependsOnlyOnSources : Prop :=
  ∀ (i : Instr) (s s' : State), s.fault = s'.fault → (∀ r ∈ sourceRegs i, s.reg r = s'.reg r) →
    ∃ t t', exec i s = .next t ∧ exec i s' = .next t' ∧ t.rsp = t'.rsp ∧ t.fault = t'.fault ∧
      (s.fault = none → t.fault = none → ∀ r ∈ destRegs i, t.reg r = t'.reg r)

/-- R129: the three rounds by hand in a data register end in the very state ENC ends in. -/
def Obligations.RoundsByHandEqualEnc : Prop :=
  ∀ (rd rs1 : Reg) (s : State), rd ∈ [Reg.d0, .d1, .d2, .d3] → s.fault = none →
    s.reg rs1 ≠ none → s.reg .k1 ≠ none → s.reg .k2 ≠ none → s.reg .k3 ≠ none →
    execAll [.rotl rd rs1, .xork rd rd .k1, .rotl rd rd, .xork rd rd .k2, .rotl rd rd, .xork rd rd .k3] s =
      exec (.enc rd rs1) s

/-- R79, R126: ENCF and DECF into a data register compute the file-level functions for the keys of a loaded key file, and leave
every other register. -/
def Obligations.FileLevelPseudoInstructions : Prop :=
  ∀ (rd rs1 : Reg) (s : State) (f f0 f1 f2 : Block), rd ∈ [Reg.d0, .d1, .d2, .d3] → s.fault = none →
    s.reg rs1 = some f → s.reg .k1 = some (transpose f0) → s.reg .k2 = some (transpose f1) →
    s.reg .k3 = some (transpose f2) →
    (∃ t, execAll (expand (.encf rd rs1)) s = .next t ∧ t.reg rd = some (fileEncrypt f f0 f1 f2) ∧
      CompletedWriting [rd] s t) ∧
    (∃ t, execAll (expand (.decf rd rs1)) s = .next t ∧ t.reg rd = some (fileDecrypt f f0 f1 f2) ∧
      CompletedWriting [rd] s t) ∧
    fileDecrypt (fileEncrypt f f0 f1 f2) f0 f1 f2 = f

/-- R79, R145 (whose closing part spec/ marks as derived): STKF puts the key file of K1, K2, K3 into D0, D1, D2, and LDKF then
gives the same keys back. -/
def Obligations.StoredKeyFileReloads : Prop :=
  ∀ (s : State) (key1 key2 key3 : Block), s.fault = none →
    s.reg .k1 = some key1 → s.reg .k2 = some key2 → s.reg .k3 = some key3 →
    ∃ t u, execAll (expand .stkf) s = .next t ∧
      t.reg .d0 = some (transpose key1) ∧ t.reg .d1 = some (transpose key2) ∧ t.reg .d2 = some (transpose key3) ∧
      CompletedWriting [.d0, .d1, .d2] s t ∧
      execAll (expand .ldkf) t = .next u ∧
      u.reg .k1 = some key1 ∧ u.reg .k2 = some key2 ∧ u.reg .k3 = some key3 ∧ CompletedWriting [.k1, .k2, .k3] t u

/-! ### Host transactions, faults and reset, as steps of the machine -/

/-- R34: byte `j` travels on bits `8j+7 : 8j` in both directions, so laying out and reading back lose nothing; a command word
is the number on bits 15:0. -/
def Obligations.ByteLanes : Prop :=
  (∀ (b : Block) (j : Fin 16) (k : Fin 8), (blockToData b).getLsbD (8 * j.val + k.val) = b[j.val].getLsbD k.val) ∧
  (∀ (d : Data) (j : Fin 16) (k : Fin 8), (blockOfData d)[j.val].getLsbD k.val = d.getLsbD (8 * j.val + k.val)) ∧
  (∀ b : Block, blockOfData (blockToData b) = b) ∧
  (∀ d : Data, blockToData (blockOfData d) = d) ∧
  (∀ q : Request, q.kind = 0 → ∃ w : CmdWord, requestTxn q = .cmd w ∧ ∀ n : Fin 16, w.getLsbD n.val = q.data.getLsbD n.val)

/-- R43: the whole of WR: refused while faulted, `E_BADSEL` on select 7, and otherwise the register named holds the block on the
data path, is valid, and nothing else changes. -/
def Obligations.WriteTransaction : Prop :=
  ∀ (s : State) (q : Request) (rest : List Event), s.inputs = .request q :: rest → q.kind = 1 →
    let s0 : State := { s with inputs := rest }
    (s.fault ≠ none → step s = .next (refuse s0)) ∧
    (s.fault = none → q.sel = 7 → ∃ t, step s = .next t ∧ FaultRaised .badSel 7 s0 t) ∧
    (∀ r, s.fault = none → q.sel = r.sel → ∃ t b, step s = .next t ∧ t.reg r = some b ∧
      (∀ (j : Fin 16) (k : Fin 8), b[j.val].getLsbD k.val = q.data.getLsbD (8 * j.val + k.val)) ∧
      CompletedWriting [r] s0 t)

/-- R44, R46: the whole of RD: refused while faulted, `E_BADSEL` on select 7, `E_RDUNINIT` on an invalid register, and otherwise
the block on the response path with no state change. -/
def Obligations.ReadTransaction : Prop :=
  ∀ (s : State) (q : Request) (rest : List Event), s.inputs = .request q :: rest → q.kind = 2 →
    let s0 : State := { s with inputs := rest }
    (s.fault ≠ none → step s = .next (refuse s0)) ∧
    (s.fault = none → q.sel = 7 → ∃ t, step s = .next t ∧ FaultRaised .badSel 7 s0 t) ∧
    (∀ r, s.fault = none → q.sel = r.sel → s.reg r = none →
      ∃ t, step s = .next t ∧ FaultRaised .rdUninit (r.sel.setWidth 16) s0 t) ∧
    (∀ r v, s.fault = none → q.sel = r.sel → s.reg r = some v → ∃ t d, step s = .next t ∧
      (∀ (j : Fin 16) (k : Fin 8), d.getLsbD (8 * j.val + k.val) = v[j.val].getLsbD k.val) ∧
      t = { s0 with rsp := some ⟨d, false⟩ })

/-- R168: the checks of each kind of transaction, in order; the first that applies decides. -/
def Obligations.ChecksInOrder : Prop :=
  ∀ s : State,
    (∀ w : CmdWord, transact (.cmd w) s =
      if s.fault.isSome then .next (refuse s)
      else match decode w with
        | .error _ => .next (raise .illegal w s)
        | .ok i => if (sourceRegs i).any (fun r => (s.reg r).isNone) then .next (raise .uninit w s) else exec i s) ∧
    (∀ (n : Sel) (v : Block), transact (.wr n v) s =
      if s.fault.isSome then .next (refuse s)
      else if n = 7 then .next (raise .badSel 7 s)
      else match Reg.ofSel n with
        | some r => .next (complete (s.write r v))
        | none => .next s) ∧
    (∀ n : Sel, transact (.rd n) s =
      if s.fault.isSome then .next (refuse s)
      else if n = 7 then .next (raise .badSel 7 s)
      else match (Reg.ofSel n).bind s.reg with
        | none => .next (raise .rdUninit (n.setWidth 16) s)
        | some v => .next (respond (blockToData v) false s)) ∧
    transact .stat s = .next (respond ((statusWord s).setWidth 128) false s)

/-- R45: select 7 on a WR or an RD raises `E_BADSEL` with `FINFO` 0x0007. -/
def Obligations.SelectSevenRaisesBadSel : Prop :=
  ∀ (s : State) (q : Request) (rest : List Event), s.inputs = .request q :: rest → q.kind = 1 ∨ q.kind = 2 →
    q.sel = 7 → s.fault = none →
    ∃ t, step s = .next t ∧ FaultRaised .badSel 0x0007 { s with inputs := rest } t

/-- R47, R19: STAT always answers err 0 with STATUS in bits 31:0 and zeros above, changing no state; every field of STATUS stands
where the rule puts it and the reserved bits read 0. -/
def Obligations.StatusTransaction : Prop :=
  ∀ (s : State) (q : Request) (rest : List Event), s.inputs = .request q :: rest → q.kind = 3 →
    ∃ d : Data, step s = .next { s with inputs := rest, rsp := some ⟨d, false⟩ } ∧
      (∀ r : Reg, d.getLsbD r.sel.toNat = (s.reg r).isSome) ∧
      d.getLsbD 7 = false ∧
      d.extractLsb' 8 3 = (match s.fault with
        | none => 0
        | some ⟨.illegal, _⟩ => 1
        | some ⟨.uninit, _⟩ => 2
        | some ⟨.rdUninit, _⟩ => 3
        | some ⟨.badSel, _⟩ => 4) ∧
      d.getLsbD 11 = s.fault.isSome ∧
      d.extractLsb' 12 4 = 0 ∧
      d.extractLsb' 16 16 = (match s.fault with
        | none => 0
        | some f => f.info) ∧
      d.extractLsb' 32 96 = 0

/-- R42: while a fault is recorded CMD, WR and RD change nothing and answer data 0, err 1; a STAT is not refused. -/
def Obligations.FaultedMachineRefuses : Prop :=
  ∀ (s : State) (q : Request) (rest : List Event) (f : FaultRecord), s.inputs = .request q :: rest → s.fault = some f →
    (q.kind ≠ 3 → step s = .next { s with inputs := rest, rsp := some ⟨0, true⟩ }) ∧
    (q.kind = 3 → ∃ t d, step s = .next t ∧ t.rsp = some ⟨d, false⟩)

/-- R167: a CMD whose word is illegal raises `E_ILLEGAL` with the word, whether or not any register is valid. -/
def Obligations.IllegalWordRaises : Prop :=
  ∀ (s : State) (q : Request) (rest : List Event) (e : Illegal), s.inputs = .request q :: rest → q.kind = 0 →
    s.fault = none → decode (q.data.extractLsb' 0 16) = .error e →
    ∃ t, step s = .next t ∧ FaultRaised .illegal (q.data.extractLsb' 0 16) { s with inputs := rest } t

/-- When the word of a CMD decodes to a command, the step is that command on the state with the request taken off. On an unfaulted
machine that is R48. On a faulted one, where R42 refuses the CMD undecoded, it is the model's choice that the meaning of a
command refuses as well (log entry 8, DEDUCED); that the request stands in `inputs` and is taken off is log entry 2 (DESIGN
CHOICE). -/
def Obligations.StepRunsDecodedCommand : Prop :=
  ∀ (s : State) (q : Request) (rest : List Event) (i : Instr), s.inputs = .request q :: rest → q.kind = 0 →
    decode (q.data.extractLsb' 0 16) = .ok i →
    step s = exec i { s with inputs := rest }

/-- The model's fetch: the word placed by `withFetchWord` is what the very next step decodes and runs; a word of at most 16 bits
is read whole (log entry 2, DESIGN CHOICE). A faulted machine is covered as in StepRunsDecodedCommand (log entry 8, DEDUCED). -/
def Obligations.WithFetchWordRunsNext : Prop :=
  ∀ (s : State) (nbits w : Nat) (i : Instr), nbits ≤ 16 → decodeTableWord nbits w = some i →
    step (s.withFetchWord nbits w) = exec i s

/-- R163: a step that records a fault writes no register and answers data 0, err 1 ("Faults are precise"), and the command that
faulted leaves the inputs that follow. -/
def Obligations.FaultsArePrecise : Prop :=
  ∀ (s t : State) (f : FaultRecord), step s = .next t → s.fault = none → t.fault = some f →
    ∃ e rest, s.inputs = e :: rest ∧ FaultRaised f.cause f.info { s with inputs := rest } t

/-- R190: reset makes any state the reset state, whatever it was and whatever is on the request channel, and nothing else
clears a valid bit or the fault record. The model's choices in it, no rule of the spec: the inputs that follow are the host's
and stand (log entry 2, DESIGN CHOICE), a reset leaves no response in `rsp` (log entry 3, DESIGN CHOICE), and the third clause
speaks of the clocked wrapper (log entry 4, DEDUCED). -/
def Obligations.OnlyResetClears : Prop :=
  (∀ (s : State) (rest : List Event), s.inputs = .reset :: rest → step s = .next { State.reset with inputs := rest }) ∧
  (∀ s t : State, step s = .next t → (∀ rest, s.inputs ≠ .reset :: rest) →
    (∀ r, s.reg r ≠ none → t.reg r ≠ none) ∧ (∀ f, s.fault = some f → t.fault = some f)) ∧
  (∀ (c : Clocked) (p : Pins) (done : Bool), p.rst = true →
    c.edge p done = .next ⟨{ State.reset with inputs := c.core.inputs }, none⟩)

/-- R191: the reset state, element by element. -/
def Obligations.ResetStateValues : Prop :=
  (∀ r, State.reset.reg r = none) ∧ State.reset.fault = none ∧ State.reset.rsp = none ∧
  statusWord State.reset = 0x00000000 ∧ causeField State.reset = 0 ∧ finfoField State.reset = 0x0000 ∧
  Clocked.afterReset.reqReady false = true ∧ Clocked.afterReset.rspValid = false

/-- 70_reset_and_hazards.md section 1, which marks it as derived: right after reset the keys cannot be used or read. -/
def Obligations.KeysUnusableAfterReset : Prop :=
  ∀ (s t : State) (rest : List Event) (rd rs1 rs2 : Reg), s.inputs = .reset :: rest → step s = .next t →
    (∃ u, exec (.enc rd rs1) t = .next u ∧ FaultRaised .uninit (encode (.enc rd rs1)) t u) ∧
    (∃ u, exec (.dec rd rs1) t = .next u ∧ FaultRaised .uninit (encode (.dec rd rs1)) t u) ∧
    (∃ u, exec (.rk3 rs1 rs2) t = .next u ∧ FaultRaised .uninit (encode (.rk3 rs1 rs2)) t u) ∧
    (∀ r ∈ [Reg.k1, .k2, .k3], ∃ u, transact (.rd r.sel) t = .next u ∧
      FaultRaised .rdUninit (r.sel.setWidth 16) t u)

/-- R20, R164: over any number of steps without a reset the first fault stays recorded and every register stays as it was. -/
def Obligations.FirstFaultIsKept : Prop :=
  ∀ (n : Nat) (s : State) (f : FaultRecord), s.fault = some f → (∀ e ∈ s.inputs.take n, e ≠ Event.reset) →
    ∃ t, runSteps n s = .next t ∧ t.fault = some f ∧ ∀ r, t.reg r = s.reg r

/-- R53: through any sequence of inputs none of which writes register `r`, `r` keeps the value of the latest write before it. -/
def Obligations.RegisterKeepsLatestWrite : Prop :=
  ∀ (es rest : List Event) (s : State) (r : Reg), (∀ e ∈ es, eventWrites e r = false) →
    ∃ t, runSteps es.length { s with inputs := es ++ rest } = .next t ∧ t.reg r = s.reg r ∧ t.inputs = rest

/-- R35, R41: every step answers a next state, and one that ran a request gives its response. R174: with no request or reset
presented all registers and the fault record are held. The model's choices in it, no rule of the spec: an idle step and a reset
leave no response in `rsp` (log entry 3, DESIGN CHOICE), and a step takes off the oldest of the inputs (log entry 2, DESIGN
CHOICE). -/
def Obligations.EveryRequestIsAnswered : Prop :=
  ∀ s : State, ∃ t, step s = .next t ∧
    (t.rsp ≠ none ↔ ∃ q rest, s.inputs = .request q :: rest) ∧ t.inputs = s.inputs.tail ∧
    (s.inputs = [] → (∀ r, t.reg r = s.reg r) ∧ t.fault = s.fault)

/-- R32: the request bits a kind ignores have no effect on any state or output. -/
def Obligations.IgnoredRequestBits : Prop :=
  ∀ (s : State) (q q' : Request) (rest : List Event), q.kind = q'.kind →
    (q.kind = 0 → q.data.extractLsb' 0 16 = q'.data.extractLsb' 0 16) →
    (q.kind = 1 → q.sel = q'.sel ∧ q.data = q'.data) →
    (q.kind = 2 → q.sel = q'.sel) →
    step { s with inputs := .request q :: rest } = step { s with inputs := .request q' :: rest }

/-- 20_memory.md section 6, which marks it as derived: WR, RD and STAT repeated at once leave the state and the answer of the
first. -/
def Obligations.AccessesAreIdempotent : Prop :=
  ∀ (x : Txn) (s t : State), (∀ w, x ≠ .cmd w) → transact x s = .next t → transact x t = .next t

/-- The invariant of the model (R161, R162, R164, R165): every step from a state whose fault record and response are explained
ends in one. -/
def Obligations.StepKeepsInvariant : Prop :=
  ∀ s t : State, s.Inv → step s = .next t → t.Inv

/-- The invariant holds at reset. -/
def Obligations.ResetMeetsInvariant : Prop :=
  State.reset.Inv

/-! ### The request channel, edge by edge -/

/-- R32, R35: without reset, an edge either runs the transaction of the request in progress, whole, or leaves registers, fault
record and further inputs as they are; and it accepts a request exactly when one is presented and the channel is ready. The
model's choices in it, no rule of the spec: the whole effect falls at the edge that answers (log entry 4, DEDUCED), the accepting
edge never answers (log entry 14, DESIGN CHOICE), and the host's further inputs stand (log entry 2, DESIGN CHOICE). -/
def Obligations.EdgesRunWholeTransactions : Prop :=
  ∀ (c : Clocked) (p : Pins) (done : Bool), p.rst = false →
    ∃ c', c.edge p done = .next c' ∧
      ((∃ r, c.inFlight = some r ∧ done = true ∧ transact (requestTxn r) c.core = .next c'.core ∧ c'.inFlight = none) ∨
       ((∀ r, c.inFlight = some r → done = false ∧ c' = c) ∧
        (∀ r, c'.core.reg r = c.core.reg r) ∧ c'.core.fault = c.core.fault ∧ c'.core.inputs = c.core.inputs)) ∧
      (c.inFlight = none → (c'.inFlight = some p.req ↔ c.reqReady false = true ∧ p.reqValid = true) ∧
        (c'.inFlight = none ↔ ¬ (c.reqReady false = true ∧ p.reqValid = true)))

/-- R32, R41: a request in progress that is answered gives a response for exactly one cycle, during which no request is accepted;
the channel is ready in the cycle after it. It speaks of the clocked wrapper (log entry 4, DEDUCED). -/
def Obligations.ResponseForOneCycle : Prop :=
  ∀ (c : Clocked) (r : Request) (p p' : Pins) (done' : Bool), c.inFlight = some r → p.rst = false → p'.rst = false →
    c.reqReady false = false ∧ c.rspValid = false ∧
    ∃ c' c'', c.edge p true = .next c' ∧ c'.rspValid = true ∧ c'.reqReady false = false ∧
      c'.edge p' done' = .next c'' ∧ c''.rspValid = false ∧ c''.reqReady false = true ∧ c''.inFlight = none

/-- R193: a reset sampled while a request is in progress abandons it: the state is the reset state and there is no response.
That the host's further inputs stand is the model's choice (log entry 2, DESIGN CHOICE), and the wrapper is log entry 4's (DEDUCED). -/
def Obligations.ResetAbandonsRequest : Prop :=
  ∀ (c : Clocked) (r : Request) (p : Pins) (done : Bool), c.inFlight = some r → p.rst = true →
    ∃ c', c.edge p done = .next c' ∧ c'.core = { State.reset with inputs := c.core.inputs } ∧
      c'.inFlight = none ∧ c'.rspValid = false
end

