-- ==== Sys2Proof/Laws/Blocks.lean ====
section
/-! SUPPORT. Laws/Blocks: one lemma per function on blocks, by byte position, and the two facts about lane permutations that
R101 rests on. -/

namespace Sys2Proof.Machine

@[simp] theorem permute_getElem (src : Fin 16 → Fin 16) (b : Block) (p : Nat) (h : p < 16) :
    (permute src b)[p] = b[src ⟨p, h⟩] := by
  simp [permute]

@[simp] theorem xorWithKey_getElem (b k : Block) (p : Nat) (h : p < 16) :
    (xorWithKey b k)[p] = b[p] ^^^ k[p] := by
  simp [xorWithKey]

@[simp] theorem constBlock_getElem (v : Byte) (p : Nat) (h : p < 16) : (constBlock v)[p] = v := by
  simp [constBlock]

/-- Composing two lane permutations composes their sources. -/
theorem permute_permute (f g : Fin 16 → Fin 16) (b : Block) : permute f (permute g b) = permute (g ∘ f) b := by
  ext p h; simp

theorem permute_id (b : Block) : permute id b = b := by
  ext p h; simp

/-- Two sources that agree everywhere give the same permutation; closed sources are compared by `decide`. -/
theorem permute_congr {f g : Fin 16 → Fin 16} (h : ∀ p, f p = g p) (b : Block) : permute f b = permute g b := by
  rw [funext h]

theorem permute_xorWithKey (f : Fin 16 → Fin 16) (a b : Block) :
    permute f (xorWithKey a b) = xorWithKey (permute f a) (permute f b) := by
  ext p h; simp

theorem permute_constBlock (f : Fin 16 → Fin 16) (v : Byte) : permute f (constBlock v) = constBlock v := by
  ext p h; simp

theorem xorWithKey_assoc (a b c : Block) : xorWithKey (xorWithKey a b) c = xorWithKey a (xorWithKey b c) := by
  ext p h; simp [BitVec.xor_assoc]

end Sys2Proof.Machine
end

