-- ==== Sys2Proof/Laws/Config.lean ====
section
/-! SUPPORT. Laws/Config: the constants of R6 and R7 agree with one another and with the widths in Word.lean. -/

namespace Sys2Proof.Config

theorem keyfileBytes_eq : keyfileBytes = nkeys * blockBytes := rfl

theorem blockBytes_eq : blockBytes = dim * dim := rfl

theorem dataBits_eq : dataBits = 8 * blockBytes := rfl

theorem block_toList_length (b : Block) : b.toList.length = blockBytes := by simp [blockBytes]

theorem cmdWord_width : CmdWord = BitVec cmdBits := rfl

theorem sel_width : Sel = BitVec selBits := rfl

theorem data_width : Data = BitVec dataBits := rfl

theorem statusWord_width : StatusWord = BitVec statusBits := rfl

/-- `NREG` (R7): every register is in a list of `NREG` different ones. -/
theorem regs_listed : ∃ l : List Reg, l.length = nreg ∧ l.Nodup ∧ ∀ r, r ∈ l :=
  ⟨[.d0, .d1, .d2, .d3, .k1, .k2, .k3], rfl, by decide, fun r => by cases r <;> decide⟩

end Sys2Proof.Config
end

