-- ==== Sys2Proof/Laws/Decode.lean ====
section
/-! SUPPORT. Laws/Decode: the small lemmas of selects and fields. -/

namespace Sys2Proof

@[simp] theorem Reg.ofSel_sel (r : Reg) : Reg.ofSel r.sel = some r := by cases r <;> rfl

theorem Reg.sel_ne_seven (r : Reg) : r.sel ≠ 7 := by cases r <;> decide

theorem Reg.ofSel_eq_some_iff (n : Sel) (r : Reg) : Reg.ofSel n = some r ↔ n = r.sel := by
  revert n; cases r <;> decide

theorem Reg.ofSel_eq_none_iff (n : Sel) : Reg.ofSel n = none ↔ n = 7 := by
  revert n; decide

@[simp] theorem usedField_sel (why : Illegal) (r : Reg) : usedField why r.sel = .ok r := by
  simp [usedField]

theorem usedField_eq_ok_iff (why : Illegal) (n : Sel) (r : Reg) : usedField why n = .ok r ↔ n = r.sel := by
  rw [← Reg.ofSel_eq_some_iff, usedField]
  cases Reg.ofSel n <;> simp

end Sys2Proof
end

