-- ==== Sys2Proof/Laws/State.lean ====
section
/-! SUPPORT. Laws/State: what each named operation of Machine/Ops.lean does to each field, so that no later proof unfolds a
record update. -/

namespace Sys2Proof.Machine

theorem regIndex_injective (a b : Reg) (h : regIndex a = regIndex b) : a = b := by
  revert h; cases a <;> cases b <;> decide

@[simp] theorem State.reg_write_self (s : State) (r : Reg) (v : Block) : (s.write r v).reg r = some v := by
  simp [State.reg, State.write]

@[simp] theorem State.reg_write_of_ne (s : State) {r q : Reg} (v : Block) (h : q ≠ r) :
    (s.write r v).reg q = s.reg q := by
  have hne : ((regIndex r : Fin 7) : Nat) ≠ (regIndex q : Fin 7) :=
    fun e => h (regIndex_injective q r (Fin.ext e.symm))
  simp [State.reg, State.write, hne]

theorem State.reg_write (s : State) (r q : Reg) (v : Block) :
    (s.write r v).reg q = if q = r then some v else s.reg q := by
  by_cases h : q = r
  · subst h; simp
  · simp [h]

@[simp] theorem State.write_fault (s : State) (r : Reg) (v : Block) : (s.write r v).fault = s.fault := rfl
@[simp] theorem State.write_rsp (s : State) (r : Reg) (v : Block) : (s.write r v).rsp = s.rsp := rfl
@[simp] theorem State.write_inputs (s : State) (r : Reg) (v : Block) : (s.write r v).inputs = s.inputs := rfl

@[simp] theorem State.write_write_self (s : State) (r : Reg) (v w : Block) :
    (s.write r v).write r w = s.write r w := by
  simp [State.write, Vector.set_set]

@[simp] theorem respond_reg (d : Data) (e : Bool) (s : State) (r : Reg) : (respond d e s).reg r = s.reg r := rfl
@[simp] theorem respond_regs (d : Data) (e : Bool) (s : State) : (respond d e s).regs = s.regs := rfl
@[simp] theorem respond_fault (d : Data) (e : Bool) (s : State) : (respond d e s).fault = s.fault := rfl
@[simp] theorem respond_rsp (d : Data) (e : Bool) (s : State) : (respond d e s).rsp = some ⟨d, e⟩ := rfl
@[simp] theorem respond_inputs (d : Data) (e : Bool) (s : State) : (respond d e s).inputs = s.inputs := rfl

@[simp] theorem complete_reg (s : State) (r : Reg) : (complete s).reg r = s.reg r := rfl
@[simp] theorem complete_regs (s : State) : (complete s).regs = s.regs := rfl
@[simp] theorem complete_fault (s : State) : (complete s).fault = s.fault := rfl
@[simp] theorem complete_rsp (s : State) : (complete s).rsp = some ⟨0, false⟩ := rfl
@[simp] theorem complete_inputs (s : State) : (complete s).inputs = s.inputs := rfl

@[simp] theorem refuse_reg (s : State) (r : Reg) : (refuse s).reg r = s.reg r := rfl
@[simp] theorem refuse_regs (s : State) : (refuse s).regs = s.regs := rfl
@[simp] theorem refuse_fault (s : State) : (refuse s).fault = s.fault := rfl
@[simp] theorem refuse_rsp (s : State) : (refuse s).rsp = some ⟨0, true⟩ := rfl
@[simp] theorem refuse_inputs (s : State) : (refuse s).inputs = s.inputs := rfl

@[simp] theorem raise_reg (c : Cause) (n : BitVec 16) (s : State) (r : Reg) : (raise c n s).reg r = s.reg r := rfl
@[simp] theorem raise_regs (c : Cause) (n : BitVec 16) (s : State) : (raise c n s).regs = s.regs := rfl
@[simp] theorem raise_fault (c : Cause) (n : BitVec 16) (s : State) : (raise c n s).fault = some ⟨c, n⟩ := rfl
@[simp] theorem raise_rsp (c : Cause) (n : BitVec 16) (s : State) : (raise c n s).rsp = some ⟨0, true⟩ := rfl
@[simp] theorem raise_inputs (c : Cause) (n : BitVec 16) (s : State) : (raise c n s).inputs = s.inputs := rfl

@[simp] theorem idle_reg (s : State) (r : Reg) : (idle s).reg r = s.reg r := rfl
@[simp] theorem idle_regs (s : State) : (idle s).regs = s.regs := rfl
@[simp] theorem idle_fault (s : State) : (idle s).fault = s.fault := rfl
@[simp] theorem idle_rsp (s : State) : (idle s).rsp = none := rfl
@[simp] theorem idle_inputs (s : State) : (idle s).inputs = s.inputs := rfl

@[simp] theorem reset_reg (r : Reg) : State.reset.reg r = none := by cases r <;> rfl
@[simp] theorem resetMachine_reg (s : State) (r : Reg) : (resetMachine s).reg r = none := by cases r <;> rfl
@[simp] theorem resetMachine_fault (s : State) : (resetMachine s).fault = none := rfl
@[simp] theorem resetMachine_rsp (s : State) : (resetMachine s).rsp = none := rfl
@[simp] theorem resetMachine_inputs (s : State) : (resetMachine s).inputs = s.inputs := rfl

/-- Taking an input off the queue leaves every register as it is. -/
@[simp] theorem State.reg_inputs (s : State) (es : List Event) (r : Reg) :
    State.reg { s with inputs := es } r = s.reg r := rfl

/-- A placed field, bit by bit. -/
theorem getLsbD_placeAt {n : Nat} (m lo : Nat) (v : BitVec n) (i : Nat) :
    (placeAt m lo v).getLsbD i = (decide (i < m) && decide (lo ≤ i) && v.getLsbD (i - lo)) := by
  simp only [placeAt, BitVec.getLsbD_shiftLeft, BitVec.getLsbD_setWidth]
  by_cases h : i < m
  · have hsub : i - lo < m := by omega
    by_cases h2 : i < lo
    · have : ¬ lo ≤ i := by omega
      simp [h, h2, this]
    · have : lo ≤ i := by omega
      simp [h, h2, this, hsub]
  · simp [h]

theorem State.valid_eq (s : State) (r : Reg) : s.valid r = (s.reg r).isSome := rfl

theorem State.faulted_eq (s : State) : s.faulted = s.fault.isSome := rfl

end Sys2Proof.Machine
end

