-- ==== Sys2Proof/Laws/Operands.lean ====
section
/-! SUPPORT. Laws/Operands: what reading sources gives, and everything the one shape of a command can do (R48). -/

namespace Sys2Proof.Machine

@[simp] theorem State.source_eq (s : State) (r : Reg) : s.source r = s.reg r := rfl

theorem State.sources2_eq_some_iff (s : State) (a b : Reg) (v w : Block) :
    s.sources2 a b = some (v, w) ↔ s.reg a = some v ∧ s.reg b = some w := by
  simp [State.sources2, Option.bind_eq_some_iff]

theorem State.sources2_eq_none_iff (s : State) (a b : Reg) :
    s.sources2 a b = none ↔ s.reg a = none ∨ s.reg b = none := by
  cases ha : s.reg a <;> cases hb : s.reg b <;> simp [State.sources2, ha, hb]

theorem State.keys3_eq_some_iff (s : State) (a b c : Block) :
    s.keys3 = some (a, b, c) ↔ s.reg .k1 = some a ∧ s.reg .k2 = some b ∧ s.reg .k3 = some c := by
  simp [State.keys3, Option.bind_eq_some_iff]

theorem State.keys3_eq_none_iff (s : State) :
    s.keys3 = none ↔ s.reg .k1 = none ∨ s.reg .k2 = none ∨ s.reg .k3 = none := by
  cases ha : s.reg .k1 <;> cases hb : s.reg .k2 <;> cases hc : s.reg .k3 <;> simp [State.keys3, ha, hb, hc]

/-- Everything `runCommand` can do: it always answers a next state, and which one. -/
theorem runCommand_next_iff (w : CmdWord) (s t : State) (result : Option State) :
    runCommand w s result = .next t ↔
      (s.faulted = true ∧ t = refuse s) ∨
      (s.faulted = false ∧ result = none ∧ t = raise .uninit w s) ∨
      (s.faulted = false ∧ ∃ u, result = some u ∧ t = complete u) := by
  unfold runCommand
  cases s.faulted <;> cases result <;> simp [eq_comm]

theorem runCommand_complete {w : CmdWord} {s u : State} {result : Option State} (hs : s.fault = none)
    (hr : result = some u) : runCommand w s result = .next (complete u) := by
  simp [runCommand, State.faulted, hs, hr]

theorem runCommand_uninit {w : CmdWord} {s : State} {result : Option State} (hs : s.fault = none)
    (hr : result = none) : runCommand w s result = .next (raise .uninit w s) := by
  simp [runCommand, State.faulted, hs, hr]

theorem runCommand_refuse {w : CmdWord} {s : State} {result : Option State} (hs : s.faulted = true) :
    runCommand w s result = .next (refuse s) := by
  simp [runCommand, hs]

end Sys2Proof.Machine
end

