-- ==== Sys2Proof/Laws/Exec.lean ====
section
/-! SUPPORT. Laws/Exec: what every command is, said once for all eight: the shape `runCommand` with the command's own word, and a
result that exists exactly when the sources of R165 are valid and that differs from the state before only in the destinations
of R13. -/

namespace Sys2Proof.Machine

/-- The result of a command as R48 has it, before the response: what its sources decide and what it may write. -/
structure ResultOf (i : Instr) (s : State) (result : Option State) : Prop where
  of_invalid : (∃ r ∈ sourceRegs i, s.reg r = none) → result = none
  of_valid : (∀ r ∈ sourceRegs i, s.reg r ≠ none) → ∃ u, result = some u ∧
    (∀ r, r ∉ destRegs i → u.reg r = s.reg r) ∧ (∀ r ∈ destRegs i, u.reg r ≠ none) ∧
    u.fault = s.fault ∧ u.inputs = s.inputs

theorem exec_shape (i : Instr) (s : State) :
    ∃ result, exec i s = runCommand (encode i) s result ∧ ResultOf i s result := by
  cases i with
  | rotl rd rs1 | rotr rd rs1 | trsp rd rs1 =>
    refine ⟨_, rfl, ?_, ?_⟩ <;> intro h <;>
      cases e1 : s.reg rs1 <;> simp [sourceRegs, destRegs, e1] at h ⊢
    intro r h; simp [h]
  | xork rd rs1 rs2 =>
    refine ⟨_, rfl, ?_, ?_⟩ <;> intro h <;>
      cases e1 : s.reg rs1 <;> cases e2 : s.reg rs2 <;>
      simp [sourceRegs, destRegs, e1, e2, State.sources2] at h ⊢
    intro r h; simp [h]
  | enc rd rs1 | dec rd rs1 =>
    refine ⟨_, rfl, ?_, ?_⟩ <;> intro h <;>
      cases e1 : s.reg rs1 <;> cases e2 : s.reg .k1 <;> cases e3 : s.reg .k2 <;> cases e4 : s.reg .k3 <;>
      simp [sourceRegs, destRegs, e1, e2, e3, e4, State.keys3] at h ⊢
    intro r h; simp [h]
  | rk3 rs1 rs2 =>
    refine ⟨_, rfl, ?_, ?_⟩ <;> intro h <;>
      cases e1 : s.reg rs1 <;> cases e2 : s.reg .k1 <;> cases e3 : s.reg .k2 <;> cases e4 : s.reg rs2 <;>
      simp [sourceRegs, destRegs, e1, e2, e3, e4, State.keys2, State.sources2] at h ⊢
    intro r h; simp [h]
  | atk rs1 rs2 =>
    refine ⟨_, rfl, ?_, ?_⟩ <;> intro h <;>
      cases e1 : s.reg rs1 <;> cases e4 : s.reg rs2 <;>
      simp [sourceRegs, destRegs, e1, e4, State.sources2] at h ⊢
    intro r h1 h2 h3; simp [*]

/-- Everything a command can do: be refused, raise `E_UNINIT`, or complete. -/
theorem exec_cases (i : Instr) (s : State) :
    (s.faulted = true ∧ exec i s = .next (refuse s)) ∨
    (s.faulted = false ∧ (∃ r ∈ sourceRegs i, s.reg r = none) ∧ exec i s = .next (raise .uninit (encode i) s)) ∨
    (s.faulted = false ∧ (∀ r ∈ sourceRegs i, s.reg r ≠ none) ∧ ∃ u, exec i s = .next (complete u) ∧
      (∀ r, r ∉ destRegs i → u.reg r = s.reg r) ∧ (∀ r ∈ destRegs i, u.reg r ≠ none) ∧
      u.fault = s.fault ∧ u.inputs = s.inputs) := by
  obtain ⟨result, he, hr⟩ := exec_shape i s
  rw [he]
  cases hf : s.faulted
  · have hn : s.fault = none := by simpa [State.faulted] using hf
    by_cases hv : ∃ r ∈ sourceRegs i, s.reg r = none
    · exact .inr (.inl ⟨rfl, hv, runCommand_uninit hn (hr.of_invalid hv)⟩)
    · have hv' : ∀ r ∈ sourceRegs i, s.reg r ≠ none := fun r h e => hv ⟨r, h, e⟩
      obtain ⟨u, hu, rest⟩ := hr.of_valid hv'
      exact .inr (.inr ⟨rfl, hv', u, runCommand_complete hn hu, rest⟩)
  · exact .inl ⟨rfl, runCommand_refuse hf⟩

end Sys2Proof.Machine
end

