-- ==== Sys2Proof/Laws/PerInstr.lean ====
section
/-! SUPPORT. Laws/PerInstr: the family `Encoded`: the fields a command is written in are well formed (R63, R71 to R73). -/

namespace Sys2Proof.Laws.Encoded

/-- The fields of the command pass every check of WellFormed.lean, and its opcode has a format. -/
def Statement (i : Instr) : Prop :=
  i.fields.wellFormed = true ∧ (Format.ofOp i.fields.op).isSome = true

theorem rotl (rd rs1 : Reg) : Statement (.rotl rd rs1) := by
  cases rd <;> cases rs1 <;> exact ⟨rfl, rfl⟩

theorem rotr (rd rs1 : Reg) : Statement (.rotr rd rs1) := by
  cases rd <;> cases rs1 <;> exact ⟨rfl, rfl⟩

theorem xork (rd rs1 rs2 : Reg) : Statement (.xork rd rs1 rs2) := by
  cases rd <;> cases rs1 <;> cases rs2 <;> exact ⟨rfl, rfl⟩

theorem trsp (rd rs1 : Reg) : Statement (.trsp rd rs1) := by
  cases rd <;> cases rs1 <;> exact ⟨rfl, rfl⟩

theorem enc (rd rs1 : Reg) : Statement (.enc rd rs1) := by
  cases rd <;> cases rs1 <;> exact ⟨rfl, rfl⟩

theorem dec (rd rs1 : Reg) : Statement (.dec rd rs1) := by
  cases rd <;> cases rs1 <;> exact ⟨rfl, rfl⟩

theorem rk3 (rs1 rs2 : Reg) : Statement (.rk3 rs1 rs2) := by
  cases rs1 <;> cases rs2 <;> exact ⟨rfl, rfl⟩

theorem atk (rs1 rs2 : Reg) : Statement (.atk rs1 rs2) := by
  cases rs1 <;> cases rs2 <;> exact ⟨rfl, rfl⟩

end Sys2Proof.Laws.Encoded
end

