-- ==== Sys2Proof/Laws/Transact.lean ====
section
/-! SUPPORT. Laws/Transact: one lemma per host transaction saying everything it can do (R42 to R48), and the two shapes of a
step. -/

namespace Sys2Proof.Machine

/-- Everything a CMD can do (R48). -/
theorem command_cases (w : CmdWord) (s : State) :
    (s.faulted = true ∧ command w s = .next (refuse s)) ∨
    (s.faulted = false ∧ (∃ e, decode w = .error e) ∧ command w s = .next (raise .illegal w s)) ∨
    (s.faulted = false ∧ ∃ i, decode w = .ok i ∧ command w s = exec i s) := by
  unfold command
  cases s.faulted <;> cases decode w <;> simp

/-- Everything a WR can do (R43, R45). -/
theorem writeBlock_cases (sel : Sel) (v : Block) (s : State) :
    (s.faulted = true ∧ writeBlock sel v s = .next (refuse s)) ∨
    (s.faulted = false ∧ sel = 7 ∧ writeBlock sel v s = .next (raise .badSel (sel.setWidth 16) s)) ∨
    (s.faulted = false ∧ ∃ r, sel = r.sel ∧ writeBlock sel v s = .next (complete (s.write r v))) := by
  unfold writeBlock
  rcases h : Reg.ofSel sel with _ | r
  · rw [Reg.ofSel_eq_none_iff] at h
    cases s.faulted <;> simp [h]
  · rw [Reg.ofSel_eq_some_iff] at h
    cases s.faulted
    · right; right; exact ⟨rfl, r, h, by simp⟩
    · simp

/-- Everything an RD can do (R44 to R46). -/
theorem readBlock_cases (sel : Sel) (s : State) :
    (s.faulted = true ∧ readBlock sel s = .next (refuse s)) ∨
    (s.faulted = false ∧ sel = 7 ∧ readBlock sel s = .next (raise .badSel (sel.setWidth 16) s)) ∨
    (s.faulted = false ∧ ∃ r, sel = r.sel ∧ s.reg r = none ∧ readBlock sel s = .next (raise .rdUninit (sel.setWidth 16) s)) ∨
    (s.faulted = false ∧ ∃ r v, sel = r.sel ∧ s.reg r = some v ∧ readBlock sel s = .next (respond (blockToData v) false s)) := by
  unfold readBlock
  rcases h : Reg.ofSel sel with _ | r
  · rw [Reg.ofSel_eq_none_iff] at h
    cases s.faulted <;> simp [h]
  · rw [Reg.ofSel_eq_some_iff] at h
    cases s.faulted
    · cases hr : s.reg r with
      | none => right; right; left; exact ⟨rfl, r, h, hr, by simp [hr]⟩
      | some v => right; right; right; exact ⟨rfl, r, v, h, hr, by simp [hr]⟩
    · simp

theorem step_of_nil {s : State} (h : s.inputs = []) : step s = .next (idle s) := by
  simp [step, h]

theorem step_of_cons {s : State} {e : Event} {rest : List Event} (h : s.inputs = e :: rest) :
    step s = runEvent e { s with inputs := rest } := by
  simp [step, h]

theorem setWidth_extract (w : CmdWord) : (w.setWidth 128).extractLsb' 0 16 = w := by
  ext i hi
  simp [hi]
  omega

@[simp] theorem requestTxn_commandRequest (w : CmdWord) : requestTxn (commandRequest w) = .cmd w := by
  show Txn.cmd ((w.setWidth 128).extractLsb' 0 16) = .cmd w
  rw [setWidth_extract]

@[simp] theorem requestTxn_readRequest (sel : Sel) : requestTxn (readRequest sel) = .rd sel := rfl

@[simp] theorem requestTxn_statusRequest : requestTxn statusRequest = .stat := rfl

end Sys2Proof.Machine
end

