-- ==== Sys2Proof/Laws/Step.lean ====
section
/-! SUPPORT. Laws/Step: runs of the machine, and the clocked wrapper's edge, by case. -/

namespace Sys2Proof.Machine

theorem runSteps_succ (n : Nat) (s : State) :
    runSteps (n + 1) s = match step s with
      | .next t => runSteps n t
      | .fault f => .fault f
      | .refused r => .refused r := rfl

theorem runSteps_succ_of_next {n : Nat} {s t : State} (h : step s = .next t) :
    runSteps (n + 1) s = runSteps n t := by
  rw [runSteps_succ, h]

theorem host_run_of_next {M : Host.Core} {n : Nat} {s t : M.State} (h : M.step s = .next t) :
    M.run (n + 1) s = M.run n t := by
  simp [Host.Core.run, h]

theorem host_run_of_fault {M : Host.Core} {n : Nat} {s : M.State} {f : M.Fault} (h : M.step s = .fault f) :
    M.run (n + 1) s = .fault f := by
  simp [Host.Core.run, h]

theorem host_run_of_refused {M : Host.Core} {n : Nat} {s : M.State} {r : M.Refusal} (h : M.step s = .refused r) :
    M.run (n + 1) s = .refused r := by
  simp [Host.Core.run, h]

/-- `runSteps` is the host's own `run` of this machine. -/
theorem core_run_eq_runSteps (n : Nat) (s : State) : Host.Core.run core n s = runSteps n s := by
  induction n generalizing s with
  | zero => rfl
  | succ n ih =>
    rw [runSteps_succ]
    cases h : step s with
    | next t => exact (host_run_of_next (M := core) h).trans (ih t)
    | fault f => exact host_run_of_fault (M := core) h
    | refused r => exact host_run_of_refused (M := core) h

theorem edge_of_rst {c : Clocked} {p : Pins} {done : Bool} (h : p.rst = true) :
    c.edge p done = .next ⟨resetMachine c.core, none⟩ := by
  simp [Clocked.edge, h]

theorem edge_of_waiting {c : Clocked} {p : Pins} {r : Request} (h : p.rst = false) (hc : c.inFlight = some r) :
    c.edge p false = .next c := by
  simp [Clocked.edge, h, hc]

theorem edge_of_done {c : Clocked} {p : Pins} {r : Request} {t : State} (h : p.rst = false) (hc : c.inFlight = some r)
    (ht : transact (requestTxn r) c.core = .next t) : c.edge p true = .next ⟨t, none⟩ := by
  simp [Clocked.edge, h, hc, ht]

end Sys2Proof.Machine
end

