-- ==== Sys2Proof/Tests/Slice0.lean ====
section
/-! SUPPORT. Tests/Slice0: small tests on fixed values. Expected values are the spec's own (95_test_vectors.md V<n>, R80, the
examples of the command rules) or worked out by hand from a rule, as each name or comment says; and witnesses that the
hypotheses of the statements can be met, clause by clause. -/

namespace Sys2Proof.Tests

open Sys2Proof.Machine

/-- A block from its 32 hex digits, byte 0 first (R8). -/
def blk (n : Nat) : Block := Vector.ofFn fun j => BitVec.ofNat 8 (n / 256 ^ (15 - j.val))

def blockP : Block := blk 0x000102030405060708090A0B0C0D0E0F
def blockC : Block := blk 0x737B636B6B535B4343BBB3ABABA39B93
def keyA : Block := blk 0x101112131415161718191A1B1C1D1E1F
def keyB : Block := blk 0xA0A1A2A3A4A5A6A7A8A9AAABACADAEAF
def keyC : Block := blk 0xC3CAD1D8DFE6EDF4FB020910171E252C
def maskB : Block := blk 0x0FF055AA00FF123480017FFEDEADBEEF

/-- D0 = P, D1 = the ciphertext of V20, D2 = the mask of V9d, K1 to K3 = the keys of V20; D3 invalid. -/
def demo : State :=
  (((((State.reset.write .d0 blockP).write .d1 blockC).write .d2 maskB).write .k1 keyA).write .k2 keyB).write .k3 keyC

/-- Every source of every command valid but one register. -/
def demoWithout (r : Reg) : State := { demo with regs := demo.regs.set (regIndex r) none }

/-- A state whose fault record is set. -/
def demoFaulted : State := { demo with fault := some ⟨.badSel, 7⟩ }

def regOf (o : Host.Outcome State Fault Refusal) (r : Reg) : Option Block :=
  match o with
  | .next t => t.reg r
  | .fault _ => none
  | .refused _ => none

def rspOf (o : Host.Outcome State Fault Refusal) : Option Response :=
  match o with
  | .next t => t.rsp
  | .fault _ => none
  | .refused _ => none

def statusOf (o : Host.Outcome State Fault Refusal) : Option StatusWord :=
  match o with
  | .next t => some (statusWord t)
  | .fault _ => none
  | .refused _ => none

def presented (s : State) (q : Request) : State := { s with inputs := [.request q] }

/-! ### Well-formedness: one ill-formed term for each check, each refused -/

theorem test_wf_accepts_legal : Fields.wellFormed ⟨1, 1, 0, 0, 0⟩ = true := by decide
theorem test_wf_refuses_reserved_opcode_zero : Fields.wellFormed ⟨0, 1, 0, 0, 0⟩ = false := by decide
theorem test_wf_refuses_reserved_opcode_nine : Fields.wellFormed ⟨9, 1, 0, 0, 0⟩ = false := by decide
theorem test_wf_refuses_z : Fields.wellFormed ⟨1, 1, 0, 0, 1⟩ = false := by decide
theorem test_wf_refuses_rs2_in_u : Fields.wellFormed ⟨1, 1, 0, 1, 0⟩ = false := by decide
theorem test_wf_refuses_rd_in_p : Fields.wellFormed ⟨7, 1, 0, 1, 0⟩ = false := by decide
theorem test_wf_refuses_rd_seven_in_u : Fields.wellFormed ⟨5, 7, 0, 0, 0⟩ = false := by decide
theorem test_wf_refuses_rs1_seven_in_u : Fields.wellFormed ⟨5, 0, 7, 0, 0⟩ = false := by decide
theorem test_wf_refuses_rd_seven_in_b : Fields.wellFormed ⟨3, 7, 0, 0, 0⟩ = false := by decide
theorem test_wf_refuses_rs1_seven_in_b : Fields.wellFormed ⟨3, 0, 7, 0, 0⟩ = false := by decide
theorem test_wf_refuses_rs2_seven_in_b : Fields.wellFormed ⟨3, 0, 0, 7, 0⟩ = false := by decide
theorem test_wf_refuses_rs1_seven_in_p : Fields.wellFormed ⟨8, 0, 7, 0, 0⟩ = false := by decide
theorem test_wf_refuses_rs2_seven_in_p : Fields.wellFormed ⟨8, 0, 0, 7, 0⟩ = false := by decide

/-! ### Decoding and encoding, words written out from R62 to R64 (op ddd sss ttt zzz) -/

theorem test_decode_rotl : decode 0b0001001000000000 = .ok (.rotl .d1 .d0) := by decide
theorem test_decode_rotr : decode 0b0010010001000000 = .ok (.rotr .d2 .d1) := by decide
theorem test_decode_xork : decode 0b0011010001100000 = .ok (.xork .d2 .d1 .k1) := by decide
theorem test_decode_trsp : decode 0b0100100000000000 = .ok (.trsp .k1 .d0) := by decide
theorem test_decode_enc : decode 0b0101001000000000 = .ok (.enc .d1 .d0) := by decide
theorem test_decode_dec : decode 0b0110011011000000 = .ok (.dec .d3 .d3) := by decide
theorem test_decode_rk3 : decode 0b0111000000001000 = .ok (.rk3 .d0 .d1) := by decide
theorem test_decode_atk : decode 0b1000000000001000 = .ok (.atk .d0 .d1) := by decide
/-- V49. -/
theorem test_decode_largest_selects : decode 0x3DB0 = .ok (.xork .k3 .k3 .k3) := by decide
/-- V43. -/
theorem test_decode_z : decode 0x1201 = .error .zNotZero := by decide
/-- V44. -/
theorem test_decode_rs2_in_u : decode 0x1208 = .error .rs2NotZero := by decide
/-- V45. -/
theorem test_decode_rd_seven : decode 0x1E00 = .error .rdSelect7 := by decide
/-- V46. -/
theorem test_decode_rs1_seven : decode 0x13C0 = .error .rs1Select7 := by decide
theorem test_decode_rs2_seven : decode 0x3038 = .error .rs2Select7 := by decide
/-- V47. -/
theorem test_decode_rd_in_p : decode 0x7208 = .error .rdNotZero := by decide
/-- V48. -/
theorem test_decode_reserved : decode 0x0000 = .error .reservedOpcode ∧ decode 0x9000 = .error .reservedOpcode ∧
    (∃ e, decode 0xFFFF = .error e) := ⟨by decide, by decide, .zNotZero, by decide⟩
/-- R80. -/
theorem test_encode : encode (.rotl .d1 .d0) = 0x1200 ∧ encode (.rotr .d2 .d1) = 0x2440 ∧
    encode (.xork .d2 .d1 .k1) = 0x3460 ∧ encode (.trsp .k1 .d0) = 0x4800 ∧ encode (.enc .d1 .d0) = 0x5200 ∧
    encode (.dec .d3 .d3) = 0x66C0 ∧ encode (.rk3 .d0 .d1) = 0x7008 ∧ encode (.atk .d0 .d1) = 0x8008 := by decide
theorem test_table_word : decodeTableWord 16 0x3460 = some (.xork .d2 .d1 .k1) ∧ decodeTableWord 16 0x0200 = none ∧
    decodeTableWord 24 0x3460 = none := by decide

/-! ### The commands (95_test_vectors.md) -/

/-- V1. -/
theorem test_rotl_v1 : regOf (exec (.rotl .d3 .d0) demo) .d3 = some (blk 0x00010203050607040A0B08090F0C0D0E) := by decide
/-- V6, in place: the old value is read first. -/
theorem test_rotl_in_place : regOf (exec (.rotl .d2 .d2) demo) .d2 = some (blk 0x0FF055AAFF1234007FFE8001EFDEADBE) := by
  decide
/-- V5. -/
theorem test_rotr_v5 : regOf (exec (.rotr .d3 .d0) demo) .d3 = some (blk 0x00010203070405060A0B08090D0E0F0C) := by decide
/-- V7, into a key register. -/
theorem test_rotr_into_key : regOf (exec (.rotr .k2 .d2) demo) .k2 = some (blk 0x0FF055AA3400FF127FFE8001ADBEEFDE) := by
  decide
/-- V9d. -/
theorem test_xork_v9d : regOf (exec (.xork .d3 .d0 .d2) demo) .d3 = some (blk 0x0FF157A904FA1433880875F5D2A0B0E0) := by
  decide
/-- V9b, all three registers one. -/
theorem test_xork_self : regOf (exec (.xork .d0 .d0 .d0) demo) .d0 = some (constBlock 0) := by decide
/-- V10. -/
theorem test_trsp_v10 : regOf (exec (.trsp .d3 .d0) demo) .d3 = some (blk 0x0004080C0105090D02060A0E03070B0F) := by decide
/-- V12, from a key register. -/
theorem test_trsp_from_key : regOf (exec (.trsp .d3 .k3) demo) .d3 = some (blk 0xC3DFFB17CAE6021ED1ED0925D8F4102C) := by
  decide
/-- V20. -/
theorem test_enc_v20 : regOf (exec (.enc .d3 .d0) demo) .d3 = some blockC := by decide
/-- P5: ENC K1, D0 uses the old K1 and then replaces it. -/
theorem test_enc_into_k1 : regOf (exec (.enc .k1 .d0) demo) .k1 = some blockC := by decide
/-- V21. -/
theorem test_dec_v21 : regOf (exec (.dec .d1 .d1) demo) .d1 = some blockP := by decide
/-- V32: with the true keys in K1 and K2 the true K3 comes back, K3 invalid before. -/
theorem test_rk3_v32 : regOf (exec (.rk3 .d0 .d1) (demoWithout .k3)) .k3 = some keyC := by decide
/-- V30, with the attacker's keys. -/
theorem test_rk3_v30 : regOf (exec (.rk3 .d0 .d1) ((demo.write .k1 (constBlock 1)).write .k2 (constBlock 0))) .k3 =
    some (blk 0x727B60696D565F4448B1BAA3A7AC959E) := by decide
/-- V31. -/
theorem test_atk_v31 : regOf (exec (.atk .d0 .d1) demo) .k3 = some (blk 0x727B60696D565F4448B1BAA3A7AC959E) ∧
    regOf (exec (.atk .d0 .d1) demo) .k1 = some (constBlock 1) ∧
    regOf (exec (.atk .d0 .d1) demo) .k2 = some (constBlock 0) := by decide
/-- ATK K1, K3 uses the old K1 and the old K3 (R143): by hand, old K3 xor Rr(old K1) with bit 0 of every byte flipped. -/
theorem test_atk_sources_are_keys : regOf (exec (.atk .k1 .k3) demo) .k3 =
    some (blk 0xD2DAC2CAC9F3F9E3E01810080B013B31) := by decide

/-! ### Host transactions, STATUS after one fault (V50 to V57) -/

/-- R34: byte 0 on bits 7:0. -/
theorem test_lanes : blockToData blockP = 0x0F0E0D0C0B0A09080706050403020100 := by decide
theorem test_write : regOf (step (presented State.reset ⟨1, 5, 0x11111111111111111111111111111102⟩)) .k2 =
    some (blk 0x02111111111111111111111111111111) := by decide
theorem test_read : rspOf (step (presented demo (readRequest 0))) =
    some ⟨0x0F0E0D0C0B0A09080706050403020100, false⟩ := by decide
theorem test_status_all_but_d3 : statusWord demo = 0x00000077 := by decide
/-- V50. -/
theorem test_v50 : statusOf (step (State.reset.withFetchWord 16 0x5000)) = some 0x50000A00 := by decide
/-- V51. -/
theorem test_v51 : statusOf (step (State.reset.withFetchWord 16 0x0000)) = some 0x00000900 := by decide
/-- V52. -/
theorem test_v52 : statusOf (step ((State.reset.write .d0 blockP).withFetchWord 16 0x1201)) = some 0x12010901 := by decide
/-- V53. -/
theorem test_v53 : statusOf (step (presented (State.reset.write .d0 blockP) (readRequest 1))) = some 0x00010B01 := by
  decide
/-- V54. -/
theorem test_v54 : statusOf (step (presented State.reset (writeRequest 7 blockP))) = some 0x00070C00 := by decide
/-- V55. -/
theorem test_v55 : statusOf (step (State.reset.withFetchWord 16 0x7208)) = some 0x72080900 := by decide
/-- V56. -/
theorem test_v56 : statusOf (step (State.reset.withFetchWord 16 0x3048)) = some 0x30480A00 := by decide
/-- V57. -/
theorem test_v57 : statusOf (step ((State.reset.write .d0 blockP).withFetchWord 16 0x13C0)) = some 0x13C00901 := by decide
/-- P7: refused while faulted, filler zeros. -/
theorem test_refused : rspOf (step (presented demoFaulted (readRequest 0))) = some ⟨0, true⟩ := by decide
/-- R78: the notation. -/
theorem test_text : lineText (.command (.xork .d2 .d1 .k1)) = "XORK D2, D1, K1" ∧ lineText (.cmd 0x12A1) = "CMD 0x12A1" ∧
    blockText blockP = "000102030405060708090A0B0C0D0E0F" := by decide
/-- R79: LDKF and its encodings in P1. -/
theorem test_ldkf_words : (expand .ldkf).map encode = [0x4800, 0x4A40, 0x4C80] := by decide
/-- S8, R126: the source's end-to-end scenario, by the functions alone. -/
theorem test_file_level : fileEncrypt (constBlock 0xAA) (constBlock 0x00) (constBlock 0x11) (constBlock 0x22) =
    constBlock 0x99 := by decide

/-! ### Witnesses: the hypotheses of the statements can be met, clause by clause -/

/-- EncodeOfDecode, DecodeAcceptsWellFormedFields, WithFetchWordRunsNext: a word that decodes. -/
theorem witness_decodes : decode 0x3DB0 = .ok (.xork .k3 .k3 .k3) ∧ decodeTableWord 16 0x3DB0 = some (.xork .k3 .k3 .k3) := by
  decide
/-- DecodeSelectsTheOpcodeRow, second clause, at both ends of the reserved opcodes. -/
theorem witness_reserved_opcodes : (0x0FFF : CmdWord).extractLsb' 12 4 = 0 ∧ 8 < ((0x9000 : CmdWord).extractLsb' 12 4).toNat ∧
    8 < ((0xFFFF : CmdWord).extractLsb' 12 4).toNat := by decide
/-- RotationFormulas, second clause, where `c - i` is negative. -/
theorem witness_right_column : (((2 : Fin 4).val : Int)) = (((1 : Fin 4).val : Int) - ((3 : Fin 4).val : Int)) % 4 := by decide
/-- PermutationsDistributeOverXor: the three permutations are in the list. -/
theorem witness_permutations : transpose ∈ [rotateRowsLeft, rotateRowsRight, transpose] := by simp
/-- RotlCompletes, RotrCompletes, TrspCompletes, XorkCompletes, AtkCompletes, EncCompletes, DecCompletes, Rk3Completes,
RoundsByHandEqualEnc, StoredKeyFileReloads, AtkIsKeyWritesThenRk3: a state that no fault marks, with the sources valid. -/
theorem witness_sources_valid : demo.fault = none ∧ demo.reg .d0 = some blockP ∧ demo.reg .d1 = some blockC ∧
    demo.reg .k1 = some keyA ∧ demo.reg .k2 = some keyB ∧ demo.reg .k3 = some keyC := by decide
/-- Rk3Completes and AtkCompletes need no valid K3, or no valid key. -/
theorem witness_keys_not_needed : (demoWithout .k3).reg .k3 = none ∧ (demoWithout .k3).reg .k2 = some keyB ∧
    (State.reset.write .d0 blockP).fault = none ∧ (State.reset.write .d0 blockP).reg .d0 = some blockP ∧
    (State.reset.write .d0 blockP).reg .k1 = none := by decide
/-- InvalidSourceRaisesUninit: exactly one source invalid, an explicit one, an implicit one; and all valid. -/
theorem witness_one_source_invalid : (demoWithout .d0).fault = none ∧ (demoWithout .d0).reg .d0 = none ∧
    (demoWithout .k2).fault = none ∧ (demoWithout .k2).reg .k2 = none ∧ (demoWithout .k2).reg .d0 ≠ none ∧
    ∀ r ∈ [Reg.d0, .d1, .k1, .k2, .k3], demo.reg r ≠ none := by decide
/-- CommandsFrame: a command that ends in a next state, one that completes and one that raises. -/
theorem witness_next_states : (∃ t, exec (.rotl .d3 .d0) demo = .next t) ∧ (∃ t, exec (.rotl .d0 .d3) demo = .next t) :=
  ⟨⟨_, rfl⟩, ⟨_, rfl⟩⟩
/-- CommandsFrame, third clause: a command that changes the fault record. -/
theorem witness_fault_changes : ∃ t, exec (.rotl .d0 .d3) demo = .next t ∧ t.fault ≠ demo.fault := ⟨_, rfl, by decide⟩
/-- CommandDependsOnlyOnSources: two different states that agree on the sources of ROTL D1, D0. -/
theorem witness_agree_on_sources : demo ≠ demoWithout .k3 ∧ demo.fault = (demoWithout .k3).fault ∧
    ∀ r ∈ sourceRegs (.rotl .d1 .d0), demo.reg r = (demoWithout .k3).reg r := by decide
/-- FileLevelPseudoInstructions: the keys are transposes, and a data register is the destination. -/
theorem witness_loaded_key_file : demo.reg .k1 = some (transpose (transpose keyA)) ∧
    demo.reg .k2 = some (transpose (transpose keyB)) ∧ demo.reg .k3 = some (transpose (transpose keyC)) ∧
    Reg.d3 ∈ [Reg.d0, .d1, .d2, .d3] := by decide
/-- WriteTransaction and SelectSevenRaisesBadSel: a WR of the last register, of select 7, and on a faulted machine. -/
theorem witness_write : (presented demo (writeRequest 6 blockP)).inputs = [.request (writeRequest 6 blockP)] ∧
    (writeRequest 6 blockP).kind = 1 ∧ (writeRequest 6 blockP).sel = Reg.k3.sel ∧ (writeRequest 7 blockP).sel = 7 ∧
    demo.fault = none ∧ demoFaulted.fault ≠ none := by decide
/-- ReadTransaction: an RD of the last register, of an invalid one, of select 7, and on a faulted machine. -/
theorem witness_read : (readRequest 6).kind = 2 ∧ (readRequest 6).sel = Reg.k3.sel ∧ demo.reg .k3 = some keyC ∧
    (readRequest 3).sel = Reg.d3.sel ∧ demo.reg .d3 = none ∧ (readRequest 7).sel = 7 ∧ demoFaulted.fault ≠ none := by decide
/-- ByteLanes, last clause: a CMD request with ignored bits set. -/
theorem witness_cmd_request : (⟨0, 7, 0xFFFF1200⟩ : Request).kind = 0 := by decide
/-- StatusTransaction, FaultedMachineRefuses: a STAT and a CMD before a faulted machine. -/
theorem witness_faulted : statusRequest.kind = 3 ∧ (commandRequest 0x1200).kind ≠ 3 ∧
    (presented demoFaulted statusRequest).fault = some ⟨.badSel, 7⟩ ∧
    (presented demoFaulted statusRequest).inputs = [.request statusRequest] := by decide
/-- IllegalWordRaises: a CMD with an illegal word. -/
theorem witness_illegal_cmd : (commandRequest 0x1201).kind = 0 ∧ demo.fault = none ∧
    decode ((commandRequest 0x1201).data.extractLsb' 0 16) = .error .zNotZero := by decide
/-- StepRunsDecodedCommand: a CMD whose word decodes. -/
theorem witness_legal_cmd : (commandRequest 0x1200).kind = 0 ∧
    decode ((commandRequest 0x1200).data.extractLsb' 0 16) = .ok (.rotl .d1 .d0) := by decide
/-- EveryRequestIsAnswered, last clause: a machine with registers, and a faulted one, with nothing presented. -/
theorem witness_idle : demo.inputs = [] ∧ demoFaulted.inputs = [] ∧ demo.reg .d0 ≠ none ∧ demoFaulted.fault ≠ none := by
  decide
/-- FaultsArePrecise: a step that records a fault. -/
theorem witness_step_faults : ∃ t, step (presented demo (readRequest 3)) = .next t ∧
    (presented demo (readRequest 3)).fault = none ∧ t.fault = some ⟨.rdUninit, 3⟩ := ⟨_, rfl, by decide, by decide⟩
/-- OnlyResetClears, KeysUnusableAfterReset: a reset presented to a machine with registers and a fault; and a step that is no
reset, of a machine with a valid register and one with a fault. -/
theorem witness_reset : ({ demoFaulted with inputs := [.reset] } : State).inputs = .reset :: [] ∧
    (∃ t, step { demoFaulted with inputs := [.reset] } = .next t) ∧
    (∃ t, step (presented demoFaulted statusRequest) = .next t) ∧ demoFaulted.reg .d0 ≠ none ∧
    (presented demoFaulted statusRequest).inputs ≠ [.reset] := ⟨rfl, ⟨_, rfl⟩, ⟨_, rfl⟩, by decide, by decide⟩
/-- FirstFaultIsKept: a faulted machine with inputs none of which is reset. -/
theorem witness_first_fault : demoFaulted.fault = some ⟨.badSel, 7⟩ ∧
    ∀ e ∈ (presented demoFaulted (readRequest 0)).inputs.take 1, e ≠ Event.reset := by decide
/-- RegisterKeepsLatestWrite: inputs of every kind none of which writes D0. -/
theorem witness_no_write : ∀ e ∈ [Event.request (writeRequest 6 blockP), .request (commandRequest 0x1200),
    .request (commandRequest 0x1201), .request (readRequest 0), .request statusRequest], eventWrites e .d0 = false := by
  decide
/-- IgnoredRequestBits: two different CMD requests with one word, two STATs, two RDs. -/
theorem witness_ignored_bits : (⟨0, 0, 0x1200⟩ : Request) ≠ ⟨0, 5, 0xAB1200⟩ ∧
    (0x1200 : Data).extractLsb' 0 16 = (0xAB1200 : Data).extractLsb' 0 16 ∧
    (⟨3, 0, 0⟩ : Request) ≠ ⟨3, 1, 1⟩ ∧ (⟨2, 4, 0⟩ : Request) ≠ ⟨2, 4, 1⟩ := by decide
/-- AccessesAreIdempotent: accesses that end in a next state. -/
theorem witness_accesses : (∃ t, transact (.wr 6 blockP) demo = .next t) ∧ (∃ t, transact (.rd 7) demo = .next t) ∧
    (∃ t, transact .stat demo = .next t) ∧ ∀ w, Txn.stat ≠ .cmd w := ⟨⟨_, rfl⟩, ⟨_, rfl⟩, ⟨_, rfl⟩, by simp⟩
/-- StepKeepsInvariant: states with each cause recorded that meet the invariant, and a step from one. -/
theorem witness_invariant : (demo.faultExplained = true ∧ demo.responseExplained = true) ∧
    (raise .illegal 0x1201 demo).faultExplained = true ∧ (raise .uninit 0x10C0 demo).faultExplained = true ∧
    (raise .rdUninit 3 demo).faultExplained = true ∧ (raise .badSel 7 demo).faultExplained = true ∧
    (raise .uninit 0x1000 demo).faultExplained = false ∧ (raise .rdUninit 0 demo).faultExplained = false := by decide
/-- StepKeepsInvariant: a state that meets the invariant, and its step. -/
theorem witness_invariant_step : (presented demo (readRequest 3)).Inv ∧ ∃ t, step (presented demo (readRequest 3)) = .next t :=
  ⟨⟨by decide, by decide⟩, _, rfl⟩
/-- The clocked statements: a request in progress, with and without reset. -/
theorem witness_in_flight : (⟨demo, some statusRequest⟩ : Clocked).inFlight = some statusRequest ∧
    (⟨false, true, statusRequest⟩ : Pins).rst = false ∧ (⟨true, true, statusRequest⟩ : Pins).rst = true ∧
    Clocked.afterReset.inFlight = none ∧ Clocked.afterReset.reqReady false = true := by decide

end Sys2Proof.Tests
end

section
/-! What each command does when it completes, as the writes of its destinations; and that its sources alone decide those
writes (R13, R23, R48). -/

namespace Sys2Proof.Machine

section

variable {s : State} {v w a b c : Block}

theorem exec_rotl_of_valid (rd : Reg) {rs1 : Reg} (hf : s.fault = none) (h1 : s.reg rs1 = some v) :
    exec (.rotl rd rs1) s = .next (complete (s.write rd (rotateRowsLeft v))) :=
  runCommand_complete hf (by simp [h1])

theorem exec_rotr_of_valid (rd : Reg) {rs1 : Reg} (hf : s.fault = none) (h1 : s.reg rs1 = some v) :
    exec (.rotr rd rs1) s = .next (complete (s.write rd (rotateRowsRight v))) :=
  runCommand_complete hf (by simp [h1])

theorem exec_xork_of_valid (rd : Reg) {rs1 rs2 : Reg} (hf : s.fault = none) (h1 : s.reg rs1 = some v)
    (h2 : s.reg rs2 = some w) :
    exec (.xork rd rs1 rs2) s = .next (complete (s.write rd (xorWithKey v w))) :=
  runCommand_complete hf (by simp [(s.sources2_eq_some_iff rs1 rs2 v w).2 ⟨h1, h2⟩])

theorem exec_trsp_of_valid (rd : Reg) {rs1 : Reg} (hf : s.fault = none) (h1 : s.reg rs1 = some v) :
    exec (.trsp rd rs1) s = .next (complete (s.write rd (transpose v))) :=
  runCommand_complete hf (by simp [h1])

theorem exec_enc_of_valid (rd : Reg) {rs1 : Reg} (hf : s.fault = none) (h1 : s.reg rs1 = some v)
    (ha : s.reg .k1 = some a) (hb : s.reg .k2 = some b) (hc : s.reg .k3 = some c) :
    exec (.enc rd rs1) s = .next (complete (s.write rd (encrypt v a b c))) :=
  runCommand_complete hf (by simp [h1, (s.keys3_eq_some_iff a b c).2 ⟨ha, hb, hc⟩])

theorem exec_dec_of_valid (rd : Reg) {rs1 : Reg} (hf : s.fault = none) (h1 : s.reg rs1 = some v)
    (ha : s.reg .k1 = some a) (hb : s.reg .k2 = some b) (hc : s.reg .k3 = some c) :
    exec (.dec rd rs1) s = .next (complete (s.write rd (decrypt v a b c))) :=
  runCommand_complete hf (by simp [h1, (s.keys3_eq_some_iff a b c).2 ⟨ha, hb, hc⟩])

theorem exec_rk3_of_valid {rs1 rs2 : Reg} (hf : s.fault = none) (h1 : s.reg rs1 = some v)
    (h2 : s.reg rs2 = some w) (ha : s.reg .k1 = some a) (hb : s.reg .k2 = some b) :
    exec (.rk3 rs1 rs2) s = .next (complete (s.write .k3 (recoverKey3 v w a b))) :=
  runCommand_complete hf (by
    simp [State.keys2, (s.sources2_eq_some_iff rs1 rs2 v w).2 ⟨h1, h2⟩,
      (s.sources2_eq_some_iff .k1 .k2 a b).2 ⟨ha, hb⟩])

theorem exec_atk_of_valid {rs1 rs2 : Reg} (hf : s.fault = none) (h1 : s.reg rs1 = some v)
    (h2 : s.reg rs2 = some w) :
    exec (.atk rs1 rs2) s = .next (complete (((s.write .k1 (constBlock Config.atkKey1Fill)).write .k2
      (constBlock Config.atkKey2Fill)).write .k3
        (recoverKey3 v w (constBlock Config.atkKey1Fill) (constBlock Config.atkKey2Fill)))) :=
  runCommand_complete hf (by simp [(s.sources2_eq_some_iff rs1 rs2 v w).2 ⟨h1, h2⟩])

end

/-- Several register writes, one after another. -/
def State.writeAll (s : State) (ws : List (Reg × Block)) : State :=
  ws.foldl (fun t x => t.write x.1 x.2) s

@[simp] theorem State.writeAll_fault (s : State) (ws : List (Reg × Block)) : (s.writeAll ws).fault = s.fault := by
  induction ws generalizing s with
  | nil => rfl
  | cons x ws ih => exact ih (s.write x.1 x.2)

/-- A written register holds the last value written to it, whatever state the writes start from. -/
theorem State.reg_writeAll_congr (ws : List (Reg × Block)) (s s' : State) (r : Reg)
    (h : r ∈ ws.map Prod.fst ∨ s.reg r = s'.reg r) : (s.writeAll ws).reg r = (s'.writeAll ws).reg r := by
  induction ws generalizing s s' with
  | nil => simpa [State.writeAll] using h
  | cons x ws ih =>
    refine ih (s.write x.1 x.2) (s'.write x.1 x.2) ?_
    by_cases hx : r = x.1
    · right; simp [hx]
    · simpa [hx] using h

theorem exec_of_faulted {s : State} (hf : s.faulted = true) (i : Instr) : exec i s = .next (refuse s) := by
  simpa [hf] using exec_cases i s

theorem exec_of_invalid {i : Instr} {s : State} (hf : s.fault = none) (hv : ∃ r ∈ sourceRegs i, s.reg r = none) :
    exec i s = .next (raise .uninit (encode i) s) := by
  obtain ⟨result, he, hr⟩ := exec_shape i s
  rw [he, runCommand_uninit hf (hr.of_invalid hv)]

/-- The sources of a command decide the list of its writes: it completes with that list in every state that records no fault
and holds the same sources (R23). -/
theorem exec_writes_determined (i : Instr) (s : State) (hv : ∀ r ∈ sourceRegs i, s.reg r ≠ none) :
    ∃ ws : List (Reg × Block), ws.map Prod.fst = destRegs i ∧
      ∀ s' : State, s'.fault = none → (∀ r ∈ sourceRegs i, s'.reg r = s.reg r) →
        exec i s' = .next (complete (s'.writeAll ws)) := by
  cases i <;>
    simp only [sourceRegs, List.forall_mem_cons, List.not_mem_nil, false_imp_iff, implies_true, and_true,
      Option.ne_none_iff_exists'] at hv ⊢
  case rotl rd rs1 =>
    obtain ⟨v, h1⟩ := hv
    exact ⟨[(rd, rotateRowsLeft v)], rfl, fun s' hf e1 => exec_rotl_of_valid rd hf (e1.trans h1)⟩
  case rotr rd rs1 =>
    obtain ⟨v, h1⟩ := hv
    exact ⟨[(rd, rotateRowsRight v)], rfl, fun s' hf e1 => exec_rotr_of_valid rd hf (e1.trans h1)⟩
  case xork rd rs1 rs2 =>
    obtain ⟨⟨v, h1⟩, w, h2⟩ := hv
    exact ⟨[(rd, xorWithKey v w)], rfl, fun s' hf ⟨e1, e2⟩ =>
      exec_xork_of_valid rd hf (e1.trans h1) (e2.trans h2)⟩
  case trsp rd rs1 =>
    obtain ⟨v, h1⟩ := hv
    exact ⟨[(rd, transpose v)], rfl, fun s' hf e1 => exec_trsp_of_valid rd hf (e1.trans h1)⟩
  case enc rd rs1 =>
    obtain ⟨⟨v, h1⟩, ⟨a, ha⟩, ⟨b, hb⟩, c, hc⟩ := hv
    exact ⟨[(rd, encrypt v a b c)], rfl, fun s' hf ⟨e1, ea, eb, ec⟩ =>
      exec_enc_of_valid rd hf (e1.trans h1) (ea.trans ha) (eb.trans hb) (ec.trans hc)⟩
  case dec rd rs1 =>
    obtain ⟨⟨v, h1⟩, ⟨a, ha⟩, ⟨b, hb⟩, c, hc⟩ := hv
    exact ⟨[(rd, decrypt v a b c)], rfl, fun s' hf ⟨e1, ea, eb, ec⟩ =>
      exec_dec_of_valid rd hf (e1.trans h1) (ea.trans ha) (eb.trans hb) (ec.trans hc)⟩
  case rk3 rs1 rs2 =>
    obtain ⟨⟨v, h1⟩, ⟨w, h2⟩, ⟨a, ha⟩, b, hb⟩ := hv
    exact ⟨[(.k3, recoverKey3 v w a b)], rfl, fun s' hf ⟨e1, e2, ea, eb⟩ =>
      exec_rk3_of_valid hf (e1.trans h1) (e2.trans h2) (ea.trans ha) (eb.trans hb)⟩
  case atk rs1 rs2 =>
    obtain ⟨⟨v, h1⟩, w, h2⟩ := hv
    exact ⟨[(.k1, constBlock Config.atkKey1Fill), (.k2, constBlock Config.atkKey2Fill),
      (.k3, recoverKey3 v w (constBlock Config.atkKey1Fill) (constBlock Config.atkKey2Fill))], rfl,
      fun s' hf ⟨e1, e2⟩ => exec_atk_of_valid hf (e1.trans h1) (e2.trans h2)⟩

end Sys2Proof.Machine
end

section
/-! What a faulted machine does: every transaction is refused but STAT, and no input but reset changes a register or the fault
record (R42, R164). -/

namespace Sys2Proof.Machine

theorem transact_refuses_of_faulted {s : State} (hf : s.faulted = true) {x : Txn} (hx : x ≠ .stat) :
    transact x s = .next (refuse s) := by
  cases x with
  | cmd w => simpa [hf, transact] using command_cases w s
  | wr sel v => simpa [hf, transact] using writeBlock_cases sel v s
  | rd sel => simpa [hf, transact] using readBlock_cases sel s
  | stat => exact absurd rfl hx

/-- A faulted machine answers every transaction and changes nothing but the response. -/
theorem transact_of_faulted {s : State} (hf : s.faulted = true) (x : Txn) :
    ∃ d err, transact x s = .next (respond d err s) := by
  by_cases hx : x = .stat
  · subst hx; exact ⟨_, _, rfl⟩
  · exact ⟨0, true, transact_refuses_of_faulted hf hx⟩

/-- One step of a faulted machine whose oldest input, if any, is no reset. -/
theorem step_of_faulted {s : State} (hf : s.faulted = true) (hne : s.inputs.head? ≠ some .reset) :
    ∃ t, step s = .next t ∧ t.fault = s.fault ∧ (∀ r, t.reg r = s.reg r) ∧ t.inputs = s.inputs.tail := by
  cases hin : s.inputs with
  | nil => exact ⟨idle s, step_of_nil hin, rfl, fun _ => rfl, hin⟩
  | cons e rest =>
    cases e with
    | reset => simp [hin] at hne
    | request q =>
      obtain ⟨d, err, ht⟩ := transact_of_faulted (s := { s with inputs := rest }) hf (requestTxn q)
      exact ⟨_, (step_of_cons hin).trans ht, rfl, fun _ => rfl, rfl⟩

/-- Settles O50, by induction on the number of steps: each keeps the fault record and the registers. -/
theorem firstFaultIsKept : Obligations.FirstFaultIsKept := by
  intro n
  induction n with
  | zero => exact fun s f hf _ => ⟨s, rfl, hf, fun _ => rfl⟩
  | succ n ih =>
    intro s f hf hin
    have hhead : s.inputs.head? ≠ some .reset := fun h =>
      hin .reset (List.mem_of_head? (by simp [List.head?_take, h])) rfl
    obtain ⟨t, hstep, htf, htr, hti⟩ := step_of_faulted (by simp [State.faulted_eq, hf]) hhead
    have htake : t.inputs.take n = (s.inputs.take (n + 1)).tail := by
      simp [hti, List.tail_take_eq_take_tail]
    obtain ⟨u, hrun, huf, hur⟩ :=
      ih t f (htf.trans hf) fun e he => hin e (List.mem_of_mem_tail (htake ▸ he))
    exact ⟨u, (runSteps_succ_of_next hstep).trans hrun, huf, fun r => (hur r).trans (htr r)⟩

end Sys2Proof.Machine
end

section
/-! The frame of a command and what its outcome depends on, in each of the three cases: refused, raised, completed. -/

namespace Sys2Proof.Machine

/-- Settles O31: a refusal and a fault write no register, and a completed command changes no fault record. -/
theorem commandsFrame : Obligations.CommandsFrame := by
  intro i s t ht
  rcases exec_cases i s with ⟨-, he⟩ | ⟨-, -, he⟩ | ⟨-, -, u, he, hframe, hdest, hfault, hinputs⟩ <;>
    cases ht.symm.trans he
  · exact ⟨fun _ _ => rfl, fun _ _ => .inl rfl, fun _ _ => rfl, rfl⟩
  · exact ⟨fun _ _ => rfl, fun _ _ => .inl rfl, fun _ _ => rfl, rfl⟩
  · exact ⟨hframe, fun r hr => .inr (hdest r hr), fun h => absurd hfault h, hinputs⟩

/-- Settles O32: the fault record and the sources put both states in the same case, and where both complete, the sources
decide the writes. -/
theorem commandDependsOnlyOnSources : Obligations.CommandDependsOnlyOnSources := by
  intro i s s' hfault hs
  cases hf : s.fault with
  | some f =>
    have hfaulted : s.faulted = true := by simp [State.faulted_eq, hf]
    have hfaulted' : s'.faulted = true := by simp [State.faulted_eq, ← hfault, hf]
    exact ⟨_, _, exec_of_faulted hfaulted i, exec_of_faulted hfaulted' i, rfl, hfault, by simp⟩
  | none =>
    have hf' : s'.fault = none := hfault.symm.trans hf
    by_cases hv : ∃ r ∈ sourceRegs i, s.reg r = none
    · have hv' : ∃ r ∈ sourceRegs i, s'.reg r = none := by
        obtain ⟨r, hr, hrs⟩ := hv
        exact ⟨r, hr, (hs r hr).symm.trans hrs⟩
      exact ⟨_, _, exec_of_invalid hf hv, exec_of_invalid hf' hv', rfl, rfl, by simp⟩
    · obtain ⟨ws, hws, hex⟩ := exec_writes_determined i s fun r hr hrs => hv ⟨r, hr, hrs⟩
      refine ⟨_, _, hex s hf fun _ _ => rfl, hex s' hf' fun r hr => (hs r hr).symm, rfl, by simpa using hfault, ?_⟩
      exact fun _ _ r hr => State.reg_writeAll_congr ws s s' r (.inl (hws ▸ hr))

end Sys2Proof.Machine
end

section
/-! How a request is read as a transaction (R32, R34): which kind it is, which bits count, and the step that runs it; with it the
statements that hold of a request by its kind alone (R32, R42, R48). -/

namespace Sys2Proof.Machine

theorem requestKind_cases (k : BitVec 2) : k = 0 ∨ k = 1 ∨ k = 2 ∨ k = 3 := by
  revert k; decide

section

variable {q : Request}

theorem requestTxn_of_cmd (hk : q.kind = 0) : requestTxn q = .cmd (q.data.extractLsb' 0 16) := by
  simp [requestTxn, hk]

theorem requestTxn_of_wr (hk : q.kind = 1) : requestTxn q = .wr q.sel (blockOfData q.data) := by
  simp [requestTxn, hk]

theorem requestTxn_of_rd (hk : q.kind = 2) : requestTxn q = .rd q.sel := by
  simp [requestTxn, hk]

theorem requestTxn_of_stat (hk : q.kind = 3) : requestTxn q = .stat := by
  simp [requestTxn, hk]

theorem requestTxn_ne_stat (hk : q.kind ≠ 3) : requestTxn q ≠ .stat := by
  rcases requestKind_cases q.kind with h | h | h | h
  · simp [requestTxn_of_cmd h]
  · simp [requestTxn_of_wr h]
  · simp [requestTxn_of_rd h]
  · exact absurd h hk

theorem step_of_request {s : State} {rest : List Event} (hin : s.inputs = .request q :: rest) :
    step s = transact (requestTxn q) { s with inputs := rest } :=
  step_of_cons hin

end

/-- Settles O53: requests that agree on the bits their kind uses ask for one transaction. -/
theorem ignoredRequestBits : Obligations.IgnoredRequestBits := by
  intro s q q' rest hkind hcmd hwr hrd
  have htxn : requestTxn q = requestTxn q' := by
    rcases requestKind_cases q.kind with h | h | h | h
    · rw [requestTxn_of_cmd h, requestTxn_of_cmd (hkind ▸ h), hcmd h]
    · obtain ⟨hsel, hdata⟩ := hwr h
      rw [requestTxn_of_wr h, requestTxn_of_wr (hkind ▸ h), hsel, hdata]
    · rw [requestTxn_of_rd h, requestTxn_of_rd (hkind ▸ h), hrd h]
    · rw [requestTxn_of_stat h, requestTxn_of_stat (hkind ▸ h)]
  rw [step_of_request rfl, step_of_request rfl, htxn]

theorem command_of_decode {w : CmdWord} {i : Instr} (hw : decode w = .ok i) (s : State) : command w s = exec i s := by
  cases hf : s.faulted with
  | false => simp [command, hf, hw]
  | true => simp [command, hf, exec_of_faulted hf i]

/-- Settles O44: refused or not, a CMD of a legal word is the command it decodes to. -/
theorem stepRunsDecodedCommand : Obligations.StepRunsDecodedCommand := by
  intro s q rest i hin hk hw
  rw [step_of_request hin, requestTxn_of_cmd hk]
  exact command_of_decode hw _

theorem step_refuses_of_fault {s : State} {q : Request} {rest : List Event} (hin : s.inputs = .request q :: rest)
    (hf : s.fault ≠ none) (hk : q.kind ≠ 3) : step s = .next (refuse { s with inputs := rest }) := by
  rw [step_of_request hin]
  exact transact_refuses_of_faulted (s := { s with inputs := rest }) (Option.isSome_iff_ne_none.2 hf)
    (requestTxn_ne_stat hk)

theorem step_stat {s : State} {q : Request} {rest : List Event} (hin : s.inputs = .request q :: rest)
    (hk : q.kind = 3) :
    step s = .next (respond ((statusWord s).setWidth 128) false { s with inputs := rest }) := by
  rw [step_of_request hin, requestTxn_of_stat hk]
  rfl

/-- Settles O42: every request but a STAT is refused, whatever its word or select. -/
theorem faultedMachineRefuses : Obligations.FaultedMachineRefuses := by
  intro s q rest f hin hf
  exact ⟨step_refuses_of_fault hin (by simp [hf]), fun hk => ⟨_, _, step_stat hin hk, rfl⟩⟩

end Sys2Proof.Machine
end

section
/-! What every input does, whatever its kind: a request is answered, leaves the further inputs and keeps every register it does
not write (R35, R53). -/

namespace Sys2Proof.Machine

theorem exec_answers (i : Instr) (s : State) :
    ∃ t, exec i s = .next t ∧ t.rsp ≠ none ∧ t.inputs = s.inputs ∧ ∀ r, r ∉ destRegs i → t.reg r = s.reg r := by
  rcases exec_cases i s with ⟨-, he⟩ | ⟨-, -, he⟩ | ⟨-, -, u, he, hframe, -, -, hin⟩
  · exact ⟨_, he, by simp, rfl, fun _ _ => rfl⟩
  · exact ⟨_, he, by simp, rfl, fun _ _ => rfl⟩
  · exact ⟨_, he, by simp, hin, hframe⟩

/-- Every request is answered, and changes no register but those `eventWrites` says it writes. -/
theorem transact_answers (q : Request) (s : State) :
    ∃ t, transact (requestTxn q) s = .next t ∧ t.rsp ≠ none ∧ t.inputs = s.inputs ∧
      ∀ r, eventWrites (.request q) r = false → t.reg r = s.reg r := by
  simp only [eventWrites]
  cases requestTxn q with
  | cmd w =>
    rcases command_cases w s with ⟨-, h⟩ | ⟨-, -, h⟩ | ⟨-, i, hw, h⟩
    · exact ⟨_, h, by simp, rfl, fun _ _ => rfl⟩
    · exact ⟨_, h, by simp, rfl, fun _ _ => rfl⟩
    · obtain ⟨t, he, hrsp, hin, hframe⟩ := exec_answers i s
      exact ⟨t, h.trans he, hrsp, hin, fun r hr => hframe r (by simpa [hw] using hr)⟩
  | wr sel v =>
    rcases writeBlock_cases sel v s with ⟨-, h⟩ | ⟨-, -, h⟩ | ⟨-, r', rfl, h⟩
    · exact ⟨_, h, by simp, rfl, fun _ _ => rfl⟩
    · exact ⟨_, h, by simp, rfl, fun _ _ => rfl⟩
    · refine ⟨_, h, by simp, rfl, fun r hr => State.reg_write_of_ne s v fun e => ?_⟩
      simp [e] at hr
  | rd sel =>
    rcases readBlock_cases sel s with ⟨-, h⟩ | ⟨-, -, h⟩ | ⟨-, _, _, _, h⟩ | ⟨-, _, _, _, _, h⟩ <;>
      exact ⟨_, h, by simp, rfl, fun _ _ => rfl⟩
  | stat => exact ⟨_, rfl, by simp, rfl, fun _ _ => rfl⟩

/-- Settles O52: by the oldest input: none, a request, or reset. -/
theorem everyRequestIsAnswered : Obligations.EveryRequestIsAnswered := by
  intro s
  cases hin : s.inputs with
  | nil => exact ⟨idle s, step_of_nil hin, by simp, hin, fun _ => ⟨fun _ => rfl, rfl⟩⟩
  | cons e rest =>
    cases e with
    | request q =>
      obtain ⟨t, ht, hrsp, hinputs, -⟩ := transact_answers q { s with inputs := rest }
      exact ⟨t, (step_of_request hin).trans ht, by simp [hrsp], hinputs, by simp⟩
    | reset => exact ⟨_, step_of_cons hin, by simp, rfl, by simp⟩

theorem step_keeps_unwritten {s : State} {e : Event} {rest : List Event} {r : Reg} (hin : s.inputs = e :: rest)
    (he : eventWrites e r = false) : ∃ t, step s = .next t ∧ t.reg r = s.reg r ∧ t.inputs = rest := by
  cases e with
  | request q =>
    obtain ⟨t, ht, -, hinputs, hframe⟩ := transact_answers q { s with inputs := rest }
    exact ⟨t, (step_of_request hin).trans ht, hframe r he, hinputs⟩
  | reset => simp [eventWrites] at he

theorem runSteps_keeps_unwritten {es rest : List Event} {r : Reg} (hes : ∀ e ∈ es, eventWrites e r = false)
    {s : State} (hin : s.inputs = es ++ rest) :
    ∃ t, runSteps es.length s = .next t ∧ t.reg r = s.reg r ∧ t.inputs = rest := by
  induction es generalizing s with
  | nil => exact ⟨s, rfl, rfl, hin⟩
  | cons e es ih =>
    obtain ⟨he, hes'⟩ := List.forall_mem_cons.1 hes
    obtain ⟨t, hstep, htr, hti⟩ := step_keeps_unwritten hin he
    obtain ⟨u, hrun, hur, hui⟩ := ih hes' hti
    exact ⟨u, (runSteps_succ_of_next hstep).trans hrun, hur.trans htr, hui⟩

/-- Settles O51, by induction on the inputs: each step keeps the register. -/
theorem registerKeepsLatestWrite : Obligations.RegisterKeepsLatestWrite :=
  fun _ _ _ _ hes => runSteps_keeps_unwritten hes rfl

end Sys2Proof.Machine
end

section
/-! The data path bit by bit (R34): where a placed field stands, and the byte lanes of a block in both directions. -/

namespace Sys2Proof.Machine

section

variable {n m lo i : Nat}

/-- Inside its own bits a placed field is the field. The upper bound `_hi` is not needed for the equation: it keeps the rewrite
from a lane the bit is not in, which `getLsbD_placeAt_outside` is for. -/
theorem getLsbD_placeAt_inside (v : BitVec n) (hlo : lo ≤ i) (_hi : i < lo + n) (hm : i < m) :
    (placeAt m lo v).getLsbD i = v.getLsbD (i - lo) := by
  simp only [getLsbD_placeAt, hlo, hm, decide_true, Bool.true_and]

/-- Outside its own bits a placed field is 0. -/
theorem getLsbD_placeAt_outside (v : BitVec n) (h : i < lo ∨ lo + n ≤ i) : (placeAt m lo v).getLsbD i = false := by
  rw [getLsbD_placeAt]
  rcases h with h | h
  · simp [Nat.not_le.2 h]
  · simp [BitVec.getLsbD_of_ge v (i - lo) (by omega)]

end

theorem getLsbD_blockToData (b : Block) (j : Fin 16) {k : Nat} (hk : k < 8) :
    (blockToData b).getLsbD (8 * j.val + k) = b[j.val].getLsbD k := by
  unfold blockToData
  fin_cases j <;>
    simp (disch := omega) only [BitVec.getLsbD_or, getLsbD_placeAt_inside, getLsbD_placeAt_outside,
      Bool.or_false, Bool.false_or, Nat.add_sub_cancel_left]

theorem getLsbD_blockOfData (d : Data) (j : Fin 16) {k : Nat} (hk : k < 8) :
    (blockOfData d)[j.val].getLsbD k = d.getLsbD (8 * j.val + k) := by
  simp [blockOfData, hk]

theorem blockOfData_blockToData (b : Block) : blockOfData (blockToData b) = b := by
  refine Vector.ext fun j hj => BitVec.eq_of_getLsbD_eq fun k hk => ?_
  exact (getLsbD_blockOfData _ ⟨j, hj⟩ hk).trans (getLsbD_blockToData b ⟨j, hj⟩ hk)

theorem blockToData_blockOfData (d : Data) : blockToData (blockOfData d) = d := by
  refine BitVec.eq_of_getLsbD_eq fun i hi => ?_
  have hk : i % 8 < 8 := Nat.mod_lt i (by decide)
  rw [← Nat.div_add_mod i 8]
  exact (getLsbD_blockToData _ ⟨i / 8, by omega⟩ hk).trans (getLsbD_blockOfData d ⟨i / 8, by omega⟩ hk)

/-- Settles O36: both directions hold lane by lane, and so do the round trips. -/
theorem byteLanes : Obligations.ByteLanes :=
  ⟨fun b j k => getLsbD_blockToData b j k.isLt, fun d j k => getLsbD_blockOfData d j k.isLt,
    blockOfData_blockToData, blockToData_blockOfData,
    fun q hk => ⟨_, requestTxn_of_cmd hk, fun n => by simp⟩⟩

end Sys2Proof.Machine
end

section
/-! WR, RD and STAT as steps (R43 to R47), case by case. -/

namespace Sys2Proof.Machine

theorem faultRaised_raise (c : Cause) (info : BitVec 16) (s : State) : FaultRaised c info s (raise c info s) :=
  ⟨fun _ => rfl, rfl, rfl, rfl⟩

theorem completedWriting_write (r : Reg) (v : Block) (s : State) :
    CompletedWriting [r] s (complete (s.write r v)) :=
  ⟨fun q hq => s.reg_write_of_ne v (by simpa using hq), rfl, rfl, rfl⟩

section

variable {s : State}

theorem writeBlock_seven (v : Block) (hf : s.fault = none) : writeBlock 7 v s = .next (raise .badSel 7 s) := by
  simp only [writeBlock, State.faulted_eq, hf, (Reg.ofSel_eq_none_iff 7).2 rfl]
  rfl

theorem writeBlock_sel (r : Reg) (v : Block) (hf : s.fault = none) :
    writeBlock r.sel v s = .next (complete (s.write r v)) := by
  simp [writeBlock, State.faulted_eq, hf]

theorem readBlock_seven (hf : s.fault = none) : readBlock 7 s = .next (raise .badSel 7 s) := by
  simp only [readBlock, State.faulted_eq, hf, (Reg.ofSel_eq_none_iff 7).2 rfl]
  rfl

theorem readBlock_of_invalid {r : Reg} (hf : s.fault = none) (hr : s.reg r = none) :
    readBlock r.sel s = .next (raise .rdUninit (r.sel.setWidth 16) s) := by
  simp [readBlock, State.faulted_eq, hf, hr]

theorem readBlock_of_valid {r : Reg} {v : Block} (hf : s.fault = none) (hr : s.reg r = some v) :
    readBlock r.sel s = .next (respond (blockToData v) false s) := by
  simp [readBlock, State.faulted_eq, hf, hr]

end

/-- Settles O40: the select is looked at before the register in a WR and in an RD alike. -/
theorem selectSevenRaisesBadSel : Obligations.SelectSevenRaisesBadSel := by
  intro s q rest hin hk h7 hf
  rw [step_of_request hin]
  rcases hk with hk | hk
  · rw [requestTxn_of_wr hk, h7]
    exact ⟨_, writeBlock_seven (blockOfData q.data) hf, faultRaised_raise _ _ _⟩
  · rw [requestTxn_of_rd hk, h7]
    exact ⟨_, readBlock_seven hf, faultRaised_raise _ _ _⟩

/-- Settles O37: the three cases of R43, the bytes by `getLsbD_blockOfData`. -/
theorem writeTransaction : Obligations.WriteTransaction := by
  intro s q rest hin hk s0
  refine ⟨fun hf => step_refuses_of_fault hin hf (by simp [hk]),
    fun hf h7 => selectSevenRaisesBadSel s q rest hin (.inl hk) h7 hf, fun r hf hsel => ?_⟩
  rw [step_of_request hin, requestTxn_of_wr hk, hsel]
  exact ⟨_, _, writeBlock_sel r _ hf, State.reg_write_self s0 r _,
    fun j k => getLsbD_blockOfData q.data j k.isLt, completedWriting_write r _ s0⟩

/-- Settles O38: the four cases of R44 and R46, the bytes by `getLsbD_blockToData`. -/
theorem readTransaction : Obligations.ReadTransaction := by
  intro s q rest hin hk s0
  refine ⟨fun hf => step_refuses_of_fault hin hf (by simp [hk]),
    fun hf h7 => selectSevenRaisesBadSel s q rest hin (.inr hk) h7 hf, fun r hf hsel hr => ?_,
    fun r v hf hsel hr => ?_⟩
  · rw [step_of_request hin, requestTxn_of_rd hk, hsel]
    exact ⟨_, readBlock_of_invalid hf hr, faultRaised_raise _ _ _⟩
  · rw [step_of_request hin, requestTxn_of_rd hk, hsel]
    exact ⟨_, _, readBlock_of_valid hf hr, fun j k => getLsbD_blockToData v j k.isLt, rfl⟩

end Sys2Proof.Machine
end

section
/-! STATUS field by field (R19), and STAT (R47). -/

namespace Sys2Proof.Machine

theorem getLsbD_validField (s : State) (r : Reg) : (validField s).getLsbD r.sel.toNat = (s.reg r).isSome := by
  unfold validField
  cases r <;>
    simp (disch := decide) only [Reg.sel, BitVec.toNat_ofNat, BitVec.getLsbD_or, getLsbD_placeAt_inside,
      getLsbD_placeAt_outside, Bool.or_false, Bool.false_or, State.valid_eq] <;>
    simp

/-- The layout of STATUS, bit by bit (R19). -/
theorem getLsbD_statusWord (s : State) {i : Nat} (hi : i < 32) :
    (statusWord s).getLsbD i =
      if i < 7 then (validField s).getLsbD i
      else if i < 8 then false
      else if i < 11 then (causeField s).getLsbD (i - 8)
      else if i < 12 then s.faulted
      else if i < 16 then false
      else (finfoField s).getLsbD (i - 16) := by
  unfold statusWord
  split_ifs <;>
    simp (disch := omega) only [BitVec.getLsbD_or, getLsbD_placeAt_inside, getLsbD_placeAt_outside, Bool.or_false,
      Bool.false_or, Nat.sub_zero]
  obtain rfl : i = 11 := by omega
  simp

/-- A field of STATUS stands on the same bits of the data path (R47). -/
theorem extract_statusData {s : State} {lo n : Nat} {v : BitVec n} (hfit : lo + n ≤ 32)
    (hv : ∀ i < n, (statusWord s).getLsbD (lo + i) = v.getLsbD i) :
    ((statusWord s).setWidth 128).extractLsb' lo n = v := by
  refine BitVec.eq_of_getLsbD_eq fun i hi => ?_
  have hpath : lo + i < 128 := by omega
  simp only [BitVec.getLsbD_extractLsb', BitVec.getLsbD_setWidth, hi, hpath, hv i hi, decide_true, Bool.true_and]

theorem extract_statusData_cause (s : State) :
    ((statusWord s).setWidth 128).extractLsb' 8 3 = causeField s :=
  extract_statusData (by decide) fun i hi => by
    simp (disch := omega) only [getLsbD_statusWord, if_pos, if_neg, Nat.add_sub_cancel_left]

theorem extract_statusData_reserved (s : State) : ((statusWord s).setWidth 128).extractLsb' 12 4 = 0 :=
  extract_statusData (by decide) fun i hi => by
    simp (disch := omega) only [getLsbD_statusWord, if_pos, if_neg, BitVec.ofNat_eq_ofNat, BitVec.getLsbD_zero]

theorem extract_statusData_finfo (s : State) :
    ((statusWord s).setWidth 128).extractLsb' 16 16 = finfoField s :=
  extract_statusData (by decide) fun i hi => by
    simp (disch := omega) only [getLsbD_statusWord, if_neg, Nat.add_sub_cancel_left]

theorem getLsbD_statusData (s : State) {i : Nat} (hi : i < 32) :
    ((statusWord s).setWidth 128).getLsbD i = (statusWord s).getLsbD i := by
  simp only [BitVec.getLsbD_setWidth, show i < 128 by omega, decide_true, Bool.true_and]

/-- Settles O41: the layout of STATUS, field by field. -/
theorem statusTransaction : Obligations.StatusTransaction := by
  intro s q rest hin hk
  refine ⟨_, step_stat hin hk, fun r => ?valid, ?bit7, ?cause, ?fault, extract_statusData_reserved _, ?finfo, ?above⟩
  case valid =>
    have hr : r.sel.toNat < 7 := (regIndex r).isLt
    rw [getLsbD_statusData _ (by omega), getLsbD_statusWord _ (by omega), if_pos hr, getLsbD_validField]
  case bit7 => exact (getLsbD_statusData _ (by decide)).trans (getLsbD_statusWord _ (by decide))
  case fault => exact (getLsbD_statusData _ (by decide)).trans (getLsbD_statusWord _ (by decide))
  case cause =>
    rw [extract_statusData_cause]
    rcases hf : s.fault with _ | ⟨c, info⟩
    · simp only [causeField, hf]
    · cases c <;> simp only [causeField, hf, causeCode]
  case finfo => exact (extract_statusData_finfo _).trans rfl
  case above =>
    ext i hi
    simp

end Sys2Proof.Machine
end

section
/-! The request channel (R32, R41): the edges with no request in progress, and the two statements about a whole request. -/

namespace Sys2Proof.Machine

section

variable {c : Clocked} {p : Pins}

theorem reqReady_of_inFlight {r : Request} (hc : c.inFlight = some r) (rst : Bool) : c.reqReady rst = false := by
  simp [Clocked.reqReady, hc]

theorem edge_of_accepted (done : Bool) (h : p.rst = false) (hc : c.inFlight = none)
    (ha : c.reqReady false = true ∧ p.reqValid = true) : c.edge p done = .next ⟨c.core, some p.req⟩ := by
  simp [Clocked.edge, h, hc, ha]

theorem edge_of_not_accepted (done : Bool) (h : p.rst = false) (hc : c.inFlight = none)
    (ha : ¬ (c.reqReady false = true ∧ p.reqValid = true)) : c.edge p done = .next ⟨idle c.core, none⟩ := by
  have hbranch : (c.reqReady false && p.reqValid) = false := by simpa using ha
  simp [Clocked.edge, h, hc, hbranch]

end

/-- Settles O57: with a request in progress by `done`, otherwise by whether a request is accepted. -/
theorem edgesRunWholeTransactions : Obligations.EdgesRunWholeTransactions := by
  intro c p done hrst
  cases hc : c.inFlight with
  | some r =>
    cases done with
    | true =>
      obtain ⟨t, ht, -⟩ := transact_answers r c.core
      exact ⟨_, edge_of_done hrst hc ht, .inl ⟨r, rfl, rfl, ht, rfl⟩, by simp⟩
    | false => exact ⟨c, edge_of_waiting hrst hc, .inr ⟨fun _ _ => ⟨rfl, rfl⟩, fun _ => rfl, rfl, rfl⟩, by simp⟩
  | none =>
    by_cases ha : c.reqReady false = true ∧ p.reqValid = true
    · exact ⟨_, edge_of_accepted done hrst hc ha, .inr ⟨by simp, fun _ => rfl, rfl, rfl⟩, by simp [ha]⟩
    · exact ⟨_, edge_of_not_accepted done hrst hc ha, .inr ⟨by simp, fun _ => rfl, rfl, rfl⟩, by simpa using ha⟩

/-- Settles O58: the response of the answering edge keeps the channel busy for that cycle, and the next edge takes it away. -/
theorem responseForOneCycle : Obligations.ResponseForOneCycle := by
  intro c r p p' done' hc hrst hrst'
  obtain ⟨t, ht, hrsp, -⟩ := transact_answers r c.core
  have hbusy : Clocked.reqReady ⟨t, none⟩ false = false := by
    simpa [Clocked.reqReady, Option.isSome_iff_ne_none] using hrsp
  exact ⟨reqReady_of_inFlight hc false, by simp [Clocked.rspValid, hc], ⟨t, none⟩, ⟨idle t, none⟩,
    edge_of_done hrst hc ht, Option.isSome_iff_ne_none.2 hrsp, hbusy,
    edge_of_not_accepted done' hrst' rfl (by simp [hbusy]), rfl, rfl, rfl⟩

end Sys2Proof.Machine
end

section
/-! The layout of a command word (R62): fields and words convert to one another without loss, and the field of a masked word is
the masked field. -/

namespace Sys2Proof

theorem Fields.toNat_toWord (f : Fields) : f.toWord.toNat =
    f.op.toNat * 4096 + f.rd.toNat * 512 + f.rs1.toNat * 64 + f.rs2.toNat * 8 + f.z.toNat := by
  rw [Fields.toWord, BitVec.toNat_ofNat]
  exact Nat.mod_eq_of_lt (by omega)

theorem Fields.ofWord_eq_iff (w : CmdWord) (f : Fields) : Fields.ofWord w = f ↔
    w.extractLsb' 12 4 = f.op ∧ w.extractLsb' 9 3 = f.rd ∧ w.extractLsb' 6 3 = f.rs1 ∧ w.extractLsb' 3 3 = f.rs2 ∧
      w.extractLsb' 0 3 = f.z := by
  cases f
  simp [Fields.ofWord]

theorem toNat_extract (w : CmdWord) (lo n : Nat) : (w.extractLsb' lo n).toNat = w.toNat / 2 ^ lo % 2 ^ n := by
  rw [BitVec.extractLsb'_toNat, Nat.shiftRight_eq_div_pow]

@[simp] theorem Fields.ofWord_toWord (f : Fields) : Fields.ofWord f.toWord = f := by
  have hf := f.toNat_toWord
  rw [Fields.ofWord_eq_iff]
  refine ⟨?_, ?_, ?_, ?_, ?_⟩ <;> (apply BitVec.eq_of_toNat_eq; rw [toNat_extract]; omega)

@[simp] theorem Fields.toWord_ofWord (w : CmdWord) : (Fields.ofWord w).toWord = w := by
  apply BitVec.eq_of_toNat_eq
  simp only [Fields.toNat_toWord, Fields.ofWord, toNat_extract]
  omega

theorem Fields.ofWord_eq_iff_eq_toWord (w : CmdWord) (f : Fields) : Fields.ofWord w = f ↔ w = f.toWord :=
  ⟨fun h => h ▸ (Fields.toWord_ofWord w).symm, fun h => h ▸ Fields.ofWord_toWord f⟩

theorem Fields.ofWord_and (v w : CmdWord) : Fields.ofWord (v &&& w) =
    ⟨(ofWord v).op &&& (ofWord w).op, (ofWord v).rd &&& (ofWord w).rd, (ofWord v).rs1 &&& (ofWord w).rs1,
      (ofWord v).rs2 &&& (ofWord w).rs2, (ofWord v).z &&& (ofWord w).z⟩ := by
  simp [Fields.ofWord, BitVec.extractLsb'_and]

theorem Instr.fields_z (i : Instr) : i.fields.z = 0 := by cases i <;> rfl

/-- Settles O3: the value of the digits, and both round trips. -/
theorem commandWordLayout : Obligations.CommandWordLayout :=
  ⟨Fields.toNat_toWord, Fields.ofWord_toWord, Fields.toWord_ofWord, fun i => ⟨rfl, i.fields_z⟩⟩

end Sys2Proof
end

section
/-! What each format accepts (R63, R66, R72, R73), and which format the decoder reads an opcode in (R64, R71). -/

namespace Sys2Proof

theorem Reg.exists_sel_iff (n : Sel) : (∃ r : Reg, n = r.sel) ↔ n ≠ 7 := by
  simp_rw [← Reg.ofSel_eq_some_iff, ← Option.isSome_iff_exists, Option.isSome_iff_ne_none, ne_eq,
    Reg.ofSel_eq_none_iff]

theorem except_bind_eq_ok_iff {ε α β : Type} {x : Except ε α} {g : α → Except ε β} {b : β} :
    (x >>= g) = .ok b ↔ ∃ a, x = .ok a ∧ g a = .ok b := by
  cases x <;> simp [bind, Except.bind]

theorem Format.ofOp_eq_none_iff (op : BitVec 4) : Format.ofOp op = none ↔ op = 0 ∨ 9 ≤ op.toNat := by
  revert op; decide

theorem Format.ofOp_eq_u_iff (op : BitVec 4) : Format.ofOp op = some .u ↔ op.toNat ∈ [1, 2, 4, 5, 6] := by
  revert op; decide

theorem Format.ofOp_eq_b_iff (op : BitVec 4) : Format.ofOp op = some .b ↔ op = 3 := by
  revert op; decide

theorem Format.ofOp_eq_p_iff (op : BitVec 4) : Format.ofOp op = some .p ↔ op.toNat ∈ [7, 8] := by
  revert op; decide

section

variable {f : Fields} {i : Instr}

theorem decodeU_eq_ok_iff (mk : Reg → Reg → Instr) : decodeU mk f = .ok i ↔
    f.rs2 = 0 ∧ ∃ rd, f.rd = rd.sel ∧ ∃ rs1, f.rs1 = rs1.sel ∧ mk rd rs1 = i := by
  unfold decodeU
  split <;> simp_all [except_bind_eq_ok_iff, usedField_eq_ok_iff, pure, Except.pure]

theorem decodeB_eq_ok_iff (mk : Reg → Reg → Reg → Instr) : decodeB mk f = .ok i ↔
    ∃ rd, f.rd = rd.sel ∧ ∃ rs1, f.rs1 = rs1.sel ∧ ∃ rs2, f.rs2 = rs2.sel ∧ mk rd rs1 rs2 = i := by
  simp [decodeB, except_bind_eq_ok_iff, usedField_eq_ok_iff, pure, Except.pure]

theorem decodeP_eq_ok_iff (mk : Reg → Reg → Instr) : decodeP mk f = .ok i ↔
    f.rd = 0 ∧ ∃ rs1, f.rs1 = rs1.sel ∧ ∃ rs2, f.rs2 = rs2.sel ∧ mk rs1 rs2 = i := by
  unfold decodeP
  split <;> simp_all [except_bind_eq_ok_iff, usedField_eq_ok_iff, pure, Except.pure]

theorem decodeFields_of_z_ne (hz : f.z ≠ 0) : decodeFields f = .error .zNotZero := by
  rw [decodeFields, if_neg hz]

/-- The decoder reads an opcode of format U by `decodeU`, for the command that is written with this opcode. The last field is
stated as `f.z`, the zero the decoder has checked. -/
theorem decodeFields_of_u (h : Format.ofOp f.op = some .u) (hz : f.z = 0) : ∃ mk, decodeFields f = decodeU mk f ∧
    ∀ rd rs1, (mk rd rs1).fields = ⟨f.op, rd.sel, rs1.sel, 0, f.z⟩ := by
  have hop : f.op = 1 ∨ f.op = 2 ∨ f.op = 4 ∨ f.op = 5 ∨ f.op = 6 := by
    simpa [BitVec.toNat_eq] using (Format.ofOp_eq_u_iff _).1 h
  obtain ⟨op, rd, rs1, rs2, z⟩ := f
  cases hz
  rcases hop with rfl | rfl | rfl | rfl | rfl
  exacts [⟨.rotl, rfl, fun _ _ => rfl⟩, ⟨.rotr, rfl, fun _ _ => rfl⟩, ⟨.trsp, rfl, fun _ _ => rfl⟩,
    ⟨.enc, rfl, fun _ _ => rfl⟩, ⟨.dec, rfl, fun _ _ => rfl⟩]

theorem decodeFields_of_b (h : Format.ofOp f.op = some .b) (hz : f.z = 0) : ∃ mk, decodeFields f = decodeB mk f ∧
    ∀ rd rs1 rs2, (mk rd rs1 rs2).fields = ⟨f.op, rd.sel, rs1.sel, rs2.sel, f.z⟩ := by
  have hop := (Format.ofOp_eq_b_iff _).1 h
  obtain ⟨op, rd, rs1, rs2, z⟩ := f
  cases hz
  cases hop
  exact ⟨.xork, rfl, fun _ _ _ => rfl⟩

theorem decodeFields_of_p (h : Format.ofOp f.op = some .p) (hz : f.z = 0) : ∃ mk, decodeFields f = decodeP mk f ∧
    ∀ rs1 rs2, (mk rs1 rs2).fields = ⟨f.op, 0, rs1.sel, rs2.sel, f.z⟩ := by
  have hop : f.op = 7 ∨ f.op = 8 := by simpa [BitVec.toNat_eq] using (Format.ofOp_eq_p_iff _).1 h
  obtain ⟨op, rd, rs1, rs2, z⟩ := f
  cases hz
  rcases hop with rfl | rfl
  exacts [⟨.rk3, rfl, fun _ _ => rfl⟩, ⟨.atk, rfl, fun _ _ => rfl⟩]

theorem decodeFields_of_reserved (h : Format.ofOp f.op = none) (hz : f.z = 0) :
    decodeFields f = .error .reservedOpcode := by
  rw [decodeFields, if_pos hz]
  split <;> simp_all [Format.ofOp]

theorem exists_decodeU_iff (mk : Reg → Reg → Instr) :
    (∃ i, decodeU mk f = .ok i) ↔ f.rs2 = 0 ∧ f.rd ≠ 7 ∧ f.rs1 ≠ 7 := by
  simp only [decodeU_eq_ok_iff, ← Reg.exists_sel_iff]
  exact ⟨fun ⟨_, h2, rd, hd, rs1, h1, _⟩ => ⟨h2, ⟨rd, hd⟩, rs1, h1⟩,
    fun ⟨h2, ⟨rd, hd⟩, rs1, h1⟩ => ⟨_, h2, rd, hd, rs1, h1, rfl⟩⟩

theorem exists_decodeB_iff (mk : Reg → Reg → Reg → Instr) :
    (∃ i, decodeB mk f = .ok i) ↔ f.rd ≠ 7 ∧ f.rs1 ≠ 7 ∧ f.rs2 ≠ 7 := by
  simp only [decodeB_eq_ok_iff, ← Reg.exists_sel_iff]
  exact ⟨fun ⟨_, rd, hd, rs1, h1, rs2, h2, _⟩ => ⟨⟨rd, hd⟩, ⟨rs1, h1⟩, rs2, h2⟩,
    fun ⟨⟨rd, hd⟩, ⟨rs1, h1⟩, rs2, h2⟩ => ⟨_, rd, hd, rs1, h1, rs2, h2, rfl⟩⟩

theorem exists_decodeP_iff (mk : Reg → Reg → Instr) :
    (∃ i, decodeP mk f = .ok i) ↔ f.rd = 0 ∧ f.rs1 ≠ 7 ∧ f.rs2 ≠ 7 := by
  simp only [decodeP_eq_ok_iff, ← Reg.exists_sel_iff]
  exact ⟨fun ⟨_, hd, rs1, h1, rs2, h2, _⟩ => ⟨hd, ⟨rs1, h1⟩, rs2, h2⟩,
    fun ⟨hd, ⟨rs1, h1⟩, rs2, h2⟩ => ⟨_, hd, rs1, h1, rs2, h2, rfl⟩⟩

theorem wellFormed_iff_of_u (h : Format.ofOp f.op = some .u) :
    f.wellFormed = true ↔ f.z = 0 ∧ f.rs2 = 0 ∧ f.rd ≠ 7 ∧ f.rs1 ≠ 7 := by
  simp [Fields.wellFormed, h, Format.unusedZero, Format.selectsName, and_assoc]

theorem wellFormed_iff_of_b (h : Format.ofOp f.op = some .b) :
    f.wellFormed = true ↔ f.z = 0 ∧ f.rd ≠ 7 ∧ f.rs1 ≠ 7 ∧ f.rs2 ≠ 7 := by
  simp [Fields.wellFormed, h, Format.unusedZero, Format.selectsName, and_assoc]

theorem wellFormed_iff_of_p (h : Format.ofOp f.op = some .p) :
    f.wellFormed = true ↔ f.z = 0 ∧ f.rd = 0 ∧ f.rs1 ≠ 7 ∧ f.rs2 ≠ 7 := by
  simp [Fields.wellFormed, h, Format.unusedZero, Format.selectsName, and_assoc]

theorem wellFormed_of_z_ne (hz : f.z ≠ 0) : f.wellFormed = false := by
  unfold Fields.wellFormed
  split <;> simp_all [Format.unusedZero]

theorem wellFormed_of_reserved (h : Format.ofOp f.op = none) : f.wellFormed = false := by
  simp [Fields.wellFormed, h]

end

end Sys2Proof
end

section
/-! The decoder against the encoder (R62, R66): a word decodes to a command exactly when its fields are the ones the command is
written in. From that, what encoding inverts; and which words decode at all, against the separate field checks (R71 to R73). -/

namespace Sys2Proof

theorem decodeFields_fields (i : Instr) : decodeFields i.fields = .ok i := by
  cases i <;> simp [decodeFields, Instr.fields, decodeU_eq_ok_iff, decodeB_eq_ok_iff, decodeP_eq_ok_iff]

theorem fields_eq_of_decodeFields {f : Fields} {i : Instr} (h : decodeFields f = .ok i) : i.fields = f := by
  by_cases hz : f.z = 0
  case neg => simp [decodeFields_of_z_ne hz] at h
  cases hfmt : Format.ofOp f.op with
  | none => simp [decodeFields_of_reserved hfmt hz] at h
  | some fmt =>
    cases fmt with
    | u =>
      obtain ⟨mk, hrow, hmk⟩ := decodeFields_of_u hfmt hz
      obtain ⟨hrs2, rd, hrd, rs1, hrs1, rfl⟩ := (decodeU_eq_ok_iff mk).1 (hrow ▸ h)
      rw [hmk, ← hrd, ← hrs1, ← hrs2]
    | b =>
      obtain ⟨mk, hrow, hmk⟩ := decodeFields_of_b hfmt hz
      obtain ⟨rd, hrd, rs1, hrs1, rs2, hrs2, rfl⟩ := (decodeB_eq_ok_iff mk).1 (hrow ▸ h)
      rw [hmk, ← hrd, ← hrs1, ← hrs2]
    | p =>
      obtain ⟨mk, hrow, hmk⟩ := decodeFields_of_p hfmt hz
      obtain ⟨hrd, rs1, hrs1, rs2, hrs2, rfl⟩ := (decodeP_eq_ok_iff mk).1 (hrow ▸ h)
      rw [hmk, ← hrd, ← hrs1, ← hrs2]

theorem decode_eq_ok_iff_fields (w : CmdWord) (i : Instr) : decode w = .ok i ↔ Fields.ofWord w = i.fields :=
  ⟨fun h => (fields_eq_of_decodeFields h).symm, fun h => by rw [decode, h, decodeFields_fields]⟩

theorem decode_eq_ok_iff (w : CmdWord) (i : Instr) : decode w = .ok i ↔ w = encode i := by
  rw [decode_eq_ok_iff_fields, Fields.ofWord_eq_iff_eq_toWord, encode]

/-- Settles O1: the word of a command is the one that decodes to it. -/
theorem decodeOfEncode : Obligations.DecodeOfEncode :=
  fun i => (decode_eq_ok_iff _ i).2 rfl

/-- Settles O2: a word that decodes to a command is the command's word. -/
theorem encodeOfDecode : Obligations.EncodeOfDecode :=
  ⟨fun w i h => ((decode_eq_ok_iff w i).1 h).symm,
    fun v w i hv hw => ((decode_eq_ok_iff v i).1 hv).trans ((decode_eq_ok_iff w i).1 hw).symm⟩

theorem encode_injective : Function.Injective encode := fun i j h => by
  have hj : decode (encode i) = .ok j := by rw [h]; exact decodeOfEncode j
  exact Except.ok.inj ((decodeOfEncode i).symm.trans hj)

theorem exists_decodeFields_iff (f : Fields) : (∃ i, decodeFields f = .ok i) ↔ f.wellFormed = true := by
  by_cases hz : f.z = 0
  case neg => simp [decodeFields_of_z_ne hz, wellFormed_of_z_ne hz]
  cases hfmt : Format.ofOp f.op with
  | none => simp [decodeFields_of_reserved hfmt hz, wellFormed_of_reserved hfmt]
  | some fmt =>
    cases fmt with
    | u =>
      obtain ⟨mk, hrow, -⟩ := decodeFields_of_u hfmt hz
      simp only [hrow, exists_decodeU_iff, wellFormed_iff_of_u hfmt, hz, true_and]
    | b =>
      obtain ⟨mk, hrow, -⟩ := decodeFields_of_b hfmt hz
      simp only [hrow, exists_decodeB_iff, wellFormed_iff_of_b hfmt, hz, true_and]
    | p =>
      obtain ⟨mk, hrow, -⟩ := decodeFields_of_p hfmt hz
      simp only [hrow, exists_decodeP_iff, wellFormed_iff_of_p hfmt, hz, true_and]

/-- Settles O6: format by format. -/
theorem decodeAcceptsWellFormedFields : Obligations.DecodeAcceptsWellFormedFields :=
  fun w => exists_decodeFields_iff (Fields.ofWord w)

theorem exists_decode_error_iff (w : CmdWord) : (∃ e, decode w = .error e) ↔ ¬ (Fields.ofWord w).wellFormed = true := by
  rw [← decodeAcceptsWellFormedFields w]
  cases decode w <;> simp

/-- Settles O5: the negation of the field checks, format by format. -/
theorem illegalWordsAreExactly : Obligations.IllegalWordsAreExactly := by
  intro w f
  refine (exists_decode_error_iff w).trans ?_
  change ¬ f.wellFormed = true ↔ _
  rw [← Format.ofOp_eq_none_iff, ← Format.ofOp_eq_u_iff, ← Format.ofOp_eq_b_iff, ← Format.ofOp_eq_p_iff]
  cases hfmt : Format.ofOp f.op with
  | none => simp [wellFormed_of_reserved hfmt]
  | some fmt =>
    cases fmt with
    | u =>
      simp only [wellFormed_iff_of_u hfmt, Option.some.injEq, reduceCtorEq, true_and, false_and, false_or]
      tauto
    | b =>
      simp only [wellFormed_iff_of_b hfmt, Option.some.injEq, reduceCtorEq, true_and, false_and, false_or]
      tauto
    | p =>
      simp only [wellFormed_iff_of_p hfmt, Option.some.injEq, reduceCtorEq, true_and, false_and, false_or]
      tauto

end Sys2Proof
end

section
/-! The rows of the opcode table (R64): what the mask and match of a row say about the fields of a word. -/

namespace Sys2Proof

theorem Fields.masked_eq_iff (w m : CmdWord) (f : Fields) : w &&& m = f.toWord ↔
    (ofWord w).op &&& (ofWord m).op = f.op ∧ (ofWord w).rd &&& (ofWord m).rd = f.rd ∧
      (ofWord w).rs1 &&& (ofWord m).rs1 = f.rs1 ∧ (ofWord w).rs2 &&& (ofWord m).rs2 = f.rs2 ∧
      (ofWord w).z &&& (ofWord m).z = f.z := by
  rw [← Fields.ofWord_eq_iff_eq_toWord, Fields.ofWord_and]
  cases f
  simp

section

variable {w : CmdWord} {op : BitVec 4} {i : Instr} {rd rs1 rs2 : Reg}

/-- The mask of format U keeps `op`, `rs2` and `z`, so its row's match says what the used fields leave open. -/
theorem decode_iff_of_rowU (hi : i.fields = ⟨op, rd.sel, rs1.sel, 0, 0⟩) : decode w = .ok i ↔
    w &&& 0xF03F = (⟨op, 0, 0, 0, 0⟩ : Fields).toWord ∧ w.extractLsb' 9 3 = rd.sel ∧ w.extractLsb' 6 3 = rs1.sel := by
  have hmask : Fields.ofWord 0xF03F = ⟨.allOnes 4, 0#3, 0#3, .allOnes 3, .allOnes 3⟩ := by decide
  rw [decode_eq_ok_iff_fields, hi, Fields.masked_eq_iff, hmask, Fields.ofWord_eq_iff]
  simp only [BitVec.and_allOnes, BitVec.and_zero, Fields.ofWord, BitVec.ofNat_eq_ofNat]
  tauto

theorem decode_iff_of_rowB (hi : i.fields = ⟨op, rd.sel, rs1.sel, rs2.sel, 0⟩) : decode w = .ok i ↔
    w &&& 0xF007 = (⟨op, 0, 0, 0, 0⟩ : Fields).toWord ∧ w.extractLsb' 9 3 = rd.sel ∧ w.extractLsb' 6 3 = rs1.sel ∧
      w.extractLsb' 3 3 = rs2.sel := by
  have hmask : Fields.ofWord 0xF007 = ⟨.allOnes 4, 0#3, 0#3, 0#3, .allOnes 3⟩ := by decide
  rw [decode_eq_ok_iff_fields, hi, Fields.masked_eq_iff, hmask, Fields.ofWord_eq_iff]
  simp only [BitVec.and_allOnes, BitVec.and_zero, Fields.ofWord, BitVec.ofNat_eq_ofNat]
  tauto

theorem decode_iff_of_rowP (hi : i.fields = ⟨op, 0, rs1.sel, rs2.sel, 0⟩) : decode w = .ok i ↔
    w &&& 0xFE07 = (⟨op, 0, 0, 0, 0⟩ : Fields).toWord ∧ w.extractLsb' 6 3 = rs1.sel ∧ w.extractLsb' 3 3 = rs2.sel := by
  have hmask : Fields.ofWord 0xFE07 = ⟨.allOnes 4, .allOnes 3, 0#3, 0#3, .allOnes 3⟩ := by decide
  rw [decode_eq_ok_iff_fields, hi, Fields.masked_eq_iff, hmask, Fields.ofWord_eq_iff]
  simp only [BitVec.and_allOnes, BitVec.and_zero, Fields.ofWord, BitVec.ofNat_eq_ofNat]
  tauto

end

/-- Two rows whose matches differ on the bits both masks keep match no word together. -/
theorem not_match_both {m m' v v' : CmdWord} (h : v &&& m' ≠ v' &&& m) (w : CmdWord) :
    ¬ (w &&& m = v ∧ w &&& m' = v') := by
  rintro ⟨rfl, rfl⟩
  exact h (by ac_rfl)

/-- Settles O4: each row by the lemma of its format, the reserved opcodes by the illegal words, and the rows are disjoint
because their matches differ in the opcode. -/
theorem decodeSelectsTheOpcodeRow : Obligations.DecodeSelectsTheOpcodeRow := by
  refine ⟨fun w rd rs1 rs2 => ⟨?_, ?_, ?_, ?_, ?_, ?_, ?_, ?_⟩, fun w hop => ?_, ?_⟩
  · exact decode_iff_of_rowU (op := 1) rfl
  · exact decode_iff_of_rowU (op := 2) rfl
  · exact decode_iff_of_rowB (op := 3) rfl
  · exact decode_iff_of_rowU (op := 4) rfl
  · exact decode_iff_of_rowU (op := 5) rfl
  · exact decode_iff_of_rowU (op := 6) rfl
  · exact decode_iff_of_rowP (op := 7) rfl
  · exact decode_iff_of_rowP (op := 8) rfl
  · exact (illegalWordsAreExactly w).2 (.inl hop)
  · refine List.Pairwise.imp (fun h => not_match_both h) ?_
    decide

end Sys2Proof
end

section
/-! The legal words (R66): the words of all commands, listed row by row. -/

namespace Sys2Proof

/-- The commands of a row with two operands, over a list of registers. -/
def twoOperandRow (regs : List Reg) (mk : Reg → Reg → Instr) : List Instr :=
  (regs ×ˢ regs).map fun p => mk p.1 p.2

/-- The commands of a row with three operands. -/
def threeOperandRow (regs : List Reg) (mk : Reg → Reg → Reg → Instr) : List Instr :=
  (regs ×ˢ regs ×ˢ regs).map fun p => mk p.1 p.2.1 p.2.2

/-- The commands over a list of registers, one list for each row of the opcode table. -/
def commandRows (regs : List Reg) : List (List Instr) :=
  [twoOperandRow regs .rotl, twoOperandRow regs .rotr, threeOperandRow regs .xork, twoOperandRow regs .trsp,
    twoOperandRow regs .enc, twoOperandRow regs .dec, twoOperandRow regs .rk3, twoOperandRow regs .atk]

section

variable {regs : List Reg}

theorem nodup_twoOperandRow (h : regs.Nodup) {mk : Reg → Reg → Instr}
    (hmk : ∀ a b a' b', mk a b = mk a' b' → a = a' ∧ b = b') : (twoOperandRow regs mk).Nodup :=
  (h.product h).map fun _ _ hpq => Prod.ext_iff.2 (hmk _ _ _ _ hpq)

theorem nodup_threeOperandRow (h : regs.Nodup) {mk : Reg → Reg → Reg → Instr}
    (hmk : ∀ a b c a' b' c', mk a b c = mk a' b' c' → a = a' ∧ b = b' ∧ c = c') : (threeOperandRow regs mk).Nodup :=
  (h.product (h.product h)).map fun _ _ hpq => by
    obtain ⟨ha, hb, hc⟩ := hmk _ _ _ _ _ _ hpq
    exact Prod.ext ha (Prod.ext hb hc)

/-- A row lists no command twice, and commands of two rows differ in their constructor. -/
theorem nodup_commandRows (h : regs.Nodup) : (commandRows regs).flatten.Nodup := by
  refine List.nodup_flatten.2 ⟨?_, ?_⟩
  · simp [commandRows, nodup_twoOperandRow h, nodup_threeOperandRow h]
  · simp [commandRows, twoOperandRow, threeOperandRow, List.disjoint_iff_ne, List.forall_mem_map, -List.mem_map]

theorem length_commandRows : (commandRows regs).flatten.length = 7 * regs.length ^ 2 + regs.length ^ 3 := by
  simp [commandRows, twoOperandRow, threeOperandRow, List.length_product]
  ring

theorem mem_commandRows (h : ∀ r, r ∈ regs) (i : Instr) : i ∈ (commandRows regs).flatten := by
  cases i <;> simp [commandRows, twoOperandRow, threeOperandRow, h]

end

/-- Settles O7: the words of the commands of all rows, over the seven registers. -/
theorem legalWordCount : Obligations.LegalWordCount := by
  obtain ⟨regs, hlen, hnodup, hall⟩ := Config.regs_listed
  refine ⟨(commandRows regs).flatten.map encode, (nodup_commandRows hnodup).map encode_injective, ?_, fun w => ?_⟩
  · rw [List.length_map, length_commandRows, hlen]
    decide
  · simp only [List.mem_map, mem_commandRows hall, true_and, decode_eq_ok_iff, eq_comm (a := w)]

end Sys2Proof
end

section
/-! The Block Codec (R90 to R95): its three functions byte by byte, how they are undone (R98, R99), and its three commands. -/

namespace Sys2Proof.Machine

/-- Two blocks are equal when they agree at every place `c` of every row `i` (R16). -/
theorem block_ext_rows {a b : Block} (h : ∀ i c : Fin 4, a[4 * i.val + c.val] = b[4 * i.val + c.val]) : a = b := by
  refine Vector.ext fun p hp => ?_
  have hrow := h ⟨p / 4, by omega⟩ ⟨p % 4, by omega⟩
  simpa only [Nat.div_add_mod] using hrow

theorem permute_getElem_of_source {src : Fin 16 → Fin 16} {p q : Fin 16} (h : src p = q) (b : Block) :
    (permute src b)[p.val] = b[q.val] := by
  simp [h]

theorem rotateRowsLeft_getElem (b : Block) (i c : Fin 4) :
    (rotateRowsLeft b)[4 * i.val + c.val] = b[4 * i.val + (c.val + i.val) % 4] := by
  have hsrc : leftSource ⟨4 * i + c, by omega⟩ = ⟨4 * i + (c + i) % 4, by omega⟩ := by
    simp only [leftSource, Fin.mk.injEq]
    omega
  exact permute_getElem_of_source hsrc b

/-- Read from the source's side: the byte at place `c` of row `i` goes to place `(c + i) mod 4`. -/
theorem rotateRowsRight_getElem (b : Block) (i c : Fin 4) :
    (rotateRowsRight b)[4 * i.val + (c.val + i.val) % 4] = b[4 * i.val + c.val] := by
  have hsrc : rightSource ⟨4 * i + (c + i) % 4, by omega⟩ = ⟨4 * i + c, by omega⟩ := by
    simp only [rightSource, Fin.mk.injEq]
    omega
  exact permute_getElem_of_source hsrc b

/-- R91 as it is written, by target: place `c` of row `i` comes from place `(c - i) mod 4`, the remainder non-negative. -/
theorem rotateRowsRight_getElem_of_sub (b : Block) {i c d : Fin 4} (hd : (d.val : Int) = ((c.val : Int) - i.val) % 4) :
    (rotateRowsRight b)[4 * i.val + c.val] = b[4 * i.val + d.val] := by
  have hc : c.val = (d.val + i.val) % 4 := by omega
  simpa only [hc] using rotateRowsRight_getElem b i d

/-- Settles O9: the formulas are the lemmas above, and each position list is its formula at the sixteen places. -/
theorem rotationFormulas : Obligations.RotationFormulas := by
  intro b
  refine ⟨rotateRowsLeft_getElem b, fun i c d => rotateRowsRight_getElem_of_sub b, ?left, ?right⟩
  case left =>
    refine block_ext_rows fun i c => (rotateRowsLeft_getElem b i c).trans ?_
    fin_cases i <;> fin_cases c <;> rfl
  case right =>
    refine block_ext_rows fun i c => (rotateRowsRight_getElem_of_sub b (d := c - i) ?_).trans ?_
    · revert i c; decide
    · fin_cases i <;> fin_cases c <;> rfl

/-- Settles O12: the sources of the two rotations compose to the identity. -/
theorem rotateRightUndoesLeft : Obligations.RotateRightUndoesLeft := by
  intro b
  have hsrc : ∀ p, (leftSource ∘ rightSource) p = id p := by decide
  calc rotateRowsRight (rotateRowsLeft b)
    _ = permute (leftSource ∘ rightSource) b := permute_permute rightSource leftSource b
    _ = permute id b := permute_congr hsrc b
    _ = b := permute_id b

theorem xorWithKey_comm (a b : Block) : xorWithKey a b = xorWithKey b a := by
  ext1 p hp
  simp only [xorWithKey_getElem, BitVec.xor_comm]

@[simp] theorem xorWithKey_xorWithKey_self (b k : Block) : xorWithKey (xorWithKey b k) k = b := by
  ext1 p hp
  simp only [xorWithKey_getElem, BitVec.xor_assoc, BitVec.xor_self, BitVec.xor_zero]

/-- Settles O13: each law is the law of the bytes. -/
theorem xorWithKeyLaws : Obligations.XorWithKeyLaws :=
  ⟨fun b k j => xorWithKey_getElem b k j j.isLt, xorWithKey_comm, xorWithKey_xorWithKey_self⟩

/-- Settles O21: the command writes the rotated source, whose bytes R90 gives. -/
theorem rotlCompletes : Obligations.RotlCompletes := fun rd _ s v hf h1 =>
  ⟨_, rotateRowsLeft v, exec_rotl_of_valid rd hf h1, s.reg_write_self rd _, rotateRowsLeft_getElem v,
    completedWriting_write rd _ s⟩

/-- Settles O22: likewise with R91. -/
theorem rotrCompletes : Obligations.RotrCompletes := fun rd _ s v hf h1 =>
  ⟨_, rotateRowsRight v, exec_rotr_of_valid rd hf h1, s.reg_write_self rd _, rotateRowsRight_getElem v,
    completedWriting_write rd _ s⟩

/-- Settles O23: likewise with R92, both sources read before the destination is written. -/
theorem xorkCompletes : Obligations.XorkCompletes := fun rd _ _ s v k hf h1 h2 =>
  ⟨_, xorWithKey v k, exec_xork_of_valid rd hf h1 h2, s.reg_write_self rd _,
    fun j => xorWithKey_getElem v k j j.isLt, completedWriting_write rd _ s⟩

end Sys2Proof.Machine
end

section
/-! The Block Layout Transform (R110 to R113): its function byte by byte, how it is undone, and its command. -/

namespace Sys2Proof.Machine

/-- R110 on the four rows of four bytes: row and place change roles. -/
theorem transpose_getElem (b : Block) (a c : Fin 4) : (transpose b)[4 * a.val + c.val] = b[4 * c.val + a.val] := by
  have hsrc : transposeSource ⟨4 * a + c, by omega⟩ = ⟨4 * c + a, by omega⟩ := by
    simp only [transposeSource, Fin.mk.injEq]
    omega
  exact permute_getElem_of_source hsrc b

/-- R110 as it is written, from the source's side: the byte at `j` goes to `(j mod 4) * 4 + j div 4`. -/
theorem transpose_getElem_of_linear (b : Block) (j : Fin 16) :
    (transpose b)[(j.val % 4) * 4 + j.val / 4] = b[j.val] := by
  have hrow := transpose_getElem b ⟨j % 4, by omega⟩ ⟨j / 4, by omega⟩
  simpa only [Nat.div_add_mod, Nat.mul_comm 4 (j.val % 4)] using hrow

/-- Settles O10: the formulas are the lemmas above, the position list is the formula at the sixteen places, and the diagonal
is the place of a row with the row's own number. -/
theorem transposeFormula : Obligations.TransposeFormula := by
  intro b
  refine ⟨transpose_getElem_of_linear b, transpose_getElem b, ?list, fun a => ?diagonal⟩
  case list =>
    refine block_ext_rows fun a c => (transpose_getElem b a c).trans ?_
    fin_cases a <;> fin_cases c <;> rfl
  case diagonal =>
    have hplace : 5 * a.val = 4 * a.val + a.val := by omega
    simpa only [hplace] using transpose_getElem b a a

/-- Changing the roles of row and place twice leaves each byte in its place. -/
@[simp] theorem transpose_transpose (b : Block) : transpose (transpose b) = b :=
  block_ext_rows fun a c => (transpose_getElem (transpose b) a c).trans (transpose_getElem b c a)

/-- Settles O11: a sequence is transposed block by block (R112), and mapping an involution is an involution. -/
theorem transposeIsInvolution : Obligations.TransposeIsInvolution :=
  ⟨transpose_transpose, Function.Involutive.list_map transpose_transpose, fun _ => List.length_map transpose⟩

/-- Settles O24: the command writes the transposed source, whose bytes R110 gives. -/
theorem trspCompletes : Obligations.TrspCompletes := fun rd _ s v hf h1 =>
  ⟨_, transpose v, exec_trsp_of_valid rd hf h1, s.reg_write_self rd _, transpose_getElem_of_linear v,
    completedWriting_write rd _ s⟩

end Sys2Proof.Machine
end

section
/-! The Cipher Engine (R120 to R124): one round and its inverse, byte by byte, and its two commands. -/

namespace Sys2Proof.Machine

/-- One round of `Enc` (R120). -/
def encryptRound (b k : Block) : Block := xorWithKey (rotateRowsLeft b) k

/-- One round of `Dec` (R121). -/
def decryptRound (b k : Block) : Block := rotateRowsRight (xorWithKey b k)

theorem encrypt_eq_rounds (b key1 key2 key3 : Block) :
    encrypt b key1 key2 key3 = encryptRound (encryptRound (encryptRound b key1) key2) key3 := rfl

theorem decrypt_eq_rounds (b key1 key2 key3 : Block) :
    decrypt b key1 key2 key3 = decryptRound (decryptRound (decryptRound b key3) key2) key1 := rfl

theorem encryptRound_getElem (b k : Block) (i c : Fin 4) : (encryptRound b k)[4 * i.val + c.val] =
    b[4 * i.val + (c.val + i.val) % 4] ^^^ k[4 * i.val + c.val] := by
  simp only [encryptRound, xorWithKey_getElem, rotateRowsLeft_getElem]

/-- Read from the source's side, like `rotateRowsRight_getElem`. -/
theorem decryptRound_getElem (b k : Block) (i c : Fin 4) : (decryptRound b k)[4 * i.val + (c.val + i.val) % 4] =
    b[4 * i.val + c.val] ^^^ k[4 * i.val + c.val] := by
  simp only [decryptRound, rotateRowsRight_getElem, xorWithKey_getElem]

@[simp] theorem decryptRound_encryptRound (b k : Block) : decryptRound (encryptRound b k) k = b := by
  rw [decryptRound, encryptRound, xorWithKey_xorWithKey_self, rotateRightUndoesLeft b]

/-- Settles O16: each round of decryption undoes the round of encryption with the same key, the last round first. -/
theorem decryptUndoesEncrypt : Obligations.DecryptUndoesEncrypt := by
  intro b key1 key2 key3
  simp only [encrypt_eq_rounds, decrypt_eq_rounds, decryptRound_encryptRound]

/-- Settles O25: the command writes the third round's output, and each round has the bytes of R120. -/
theorem encCompletes : Obligations.EncCompletes := fun rd _ s v key1 key2 key3 hf h1 ha hb hc =>
  ⟨_, encryptRound v key1, encryptRound (encryptRound v key1) key2, _, exec_enc_of_valid rd hf h1 ha hb hc,
    s.reg_write_self rd _, encryptRound_getElem v key1, encryptRound_getElem _ key2, encryptRound_getElem _ key3,
    completedWriting_write rd _ s⟩

/-- Settles O26: likewise with the rounds of R121. -/
theorem decCompletes : Obligations.DecCompletes := fun rd _ s v key1 key2 key3 hf h1 ha hb hc =>
  ⟨_, decryptRound v key3, decryptRound (decryptRound v key3) key2, _, exec_dec_of_valid rd hf h1 ha hb hc,
    s.reg_write_self rd _, decryptRound_getElem v key3, decryptRound_getElem _ key2, decryptRound_getElem _ key1,
    completedWriting_write rd _ s⟩

end Sys2Proof.Machine
end

section
/-! The rounds of ENC by hand (R129): sequences of commands that write one register, and a round as two of them. -/

namespace Sys2Proof.Machine

theorem execAll_cons_of_next {i : Instr} {s t : State} (h : exec i s = .next t) (is : List Instr) :
    execAll (i :: is) s = execAll is t := by
  simp only [execAll, h]

/-- A register write leaves the response, so the completion of an earlier command moves out past it; `complete_complete` then
merges it with the next one. -/
@[simp] theorem complete_write (s : State) (r : Reg) (v : Block) :
    (complete s).write r v = complete (s.write r v) := rfl

@[simp] theorem complete_complete (s : State) : complete (complete s) = complete s := rfl

theorem keys_ne_of_data : ∀ rd ∈ [Reg.d0, .d1, .d2, .d3], Reg.k1 ≠ rd ∧ Reg.k2 ≠ rd ∧ Reg.k3 ≠ rd := by
  decide

/-- ROTL and then XORK with a key register that is not the destination are one round of R120. -/
theorem execAll_round {s : State} {rd rs1 k : Reg} {v key : Block} (hf : s.fault = none) (h1 : s.reg rs1 = some v)
    (hk : s.reg k = some key) (hne : k ≠ rd) (is : List Instr) :
    execAll (.rotl rd rs1 :: .xork rd rd k :: is) s = execAll is (complete (s.write rd (encryptRound v key))) := by
  have hxork : exec (.xork rd rd k) (complete (s.write rd (rotateRowsLeft v))) =
      .next (complete (s.write rd (encryptRound v key))) := by
    rw [exec_xork_of_valid (v := rotateRowsLeft v) (w := key) rd (by simp [hf]) (by simp) (by simp [hne, hk])]
    simp [encryptRound]
  rw [execAll_cons_of_next (exec_rotl_of_valid rd hf h1), execAll_cons_of_next hxork]

/-- Settles O33: three rounds by hand, each overwriting the destination of the one before and leaving the keys. -/
theorem roundsByHandEqualEnc : Obligations.RoundsByHandEqualEnc := by
  intro rd rs1 s hrd hf h1 ha hb hc
  obtain ⟨v, h1⟩ := Option.ne_none_iff_exists'.1 h1
  obtain ⟨key1, ha⟩ := Option.ne_none_iff_exists'.1 ha
  obtain ⟨key2, hb⟩ := Option.ne_none_iff_exists'.1 hb
  obtain ⟨key3, hc⟩ := Option.ne_none_iff_exists'.1 hc
  obtain ⟨hk1, hk2, hk3⟩ := keys_ne_of_data rd hrd
  rw [execAll_round hf h1 ha hk1,
    execAll_round (v := encryptRound v key1) (key := key2) (by simp [hf]) (by simp) (by simp [hk2, hb]) hk2,
    execAll_round (v := encryptRound (encryptRound v key1) key2) (key := key3) (by simp [hf]) (by simp)
      (by simp [hk3, hc]) hk3,
    exec_enc_of_valid rd hf h1 ha hb hc]
  simp [execAll, encrypt_eq_rounds]

end Sys2Proof.Machine
end

section
/-! The Key-Recovery Attack (R140 to R147): the round-3 input as two rounds of R120, why the recovered key decrypts the
ciphertext to the plaintext, and its two commands. -/

namespace Sys2Proof.Machine

theorem c2tag_eq_rounds (p key1 key2 : Block) :
    c2tag p key1 key2 = rotateRowsLeft (encryptRound (encryptRound p key1) key2) := rfl

theorem recoverKey3_getElem (p y key1 key2 : Block) (i j : Fin 4) :
    (recoverKey3 p y key1 key2)[4 * i.val + j.val] =
      y[4 * i.val + j.val] ^^^ (encryptRound (encryptRound p key1) key2)[4 * i.val + (j.val + i.val) % 4] := by
  simp only [recoverKey3, c2tag_eq_rounds, xorWithKey_getElem, rotateRowsLeft_getElem]

/-- The idea of the attack: the third round only XORs its rotated input with the key, so some key maps that input to any
given ciphertext. -/
theorem encrypt_recoverKey3 (p y key1 key2 : Block) : encrypt p key1 key2 (recoverKey3 p y key1 key2) = y :=
  calc encrypt p key1 key2 (recoverKey3 p y key1 key2)
    _ = xorWithKey (c2tag p key1 key2) (recoverKey3 p y key1 key2) := rfl
    _ = xorWithKey (recoverKey3 p y key1 key2) (c2tag p key1 key2) := xorWithKey_comm _ _
    _ = y := xorWithKey_xorWithKey_self y _

theorem decrypt_recoverKey3 (p y key1 key2 : Block) : decrypt y key1 key2 (recoverKey3 p y key1 key2) = p :=
  calc decrypt y key1 key2 (recoverKey3 p y key1 key2)
    _ = decrypt (encrypt p key1 key2 (recoverKey3 p y key1 key2)) key1 key2 (recoverKey3 p y key1 key2) := by
      rw [encrypt_recoverKey3]
    _ = p := decryptUndoesEncrypt p key1 key2 _

/-- Settles O20: the recovered triple encrypts P to C, whatever C is, so it decrypts C to P. -/
theorem attackIsSelfConsistent : Obligations.AttackIsSelfConsistent := fun _ _ _ => decrypt_recoverKey3 _ _ _ _

/-- Settles O27: the command writes the recovered key, whose bytes are those of R140 and R141. -/
theorem rk3Completes : Obligations.Rk3Completes := fun _ _ s p y key1 key2 hf h1 h2 ha hb =>
  ⟨_, encryptRound p key1, encryptRound (encryptRound p key1) key2, recoverKey3 p y key1 key2,
    exec_rk3_of_valid hf h1 h2 ha hb, s.reg_write_self .k3 _, encryptRound_getElem p key1,
    encryptRound_getElem _ key2, recoverKey3_getElem p y key1 key2, completedWriting_write .k3 _ s⟩

theorem completedWriting_append_write {ds : List Reg} {s t : State} (h : CompletedWriting ds s t) (r : Reg) (v : Block) :
    CompletedWriting (ds ++ [r]) s (t.write r v) := by
  obtain ⟨hreg, hfault, hinputs, hrsp⟩ := h
  refine ⟨fun q hq => ?_, hfault, hinputs, hrsp⟩
  simp only [List.mem_append, List.mem_singleton, not_or] at hq
  rw [t.reg_write_of_ne v hq.2, hreg q hq.1]

theorem encryptRound_constBlock_getElem (b : Block) (v : Byte) (i j : Fin 4) :
    (encryptRound b (constBlock v))[4 * i.val + j.val] = b[4 * i.val + (j.val + i.val) % 4] ^^^ v := by
  rw [encryptRound_getElem, constBlock_getElem]

/-- The three keys written one after another: no write overwrites another, and nothing else is written. -/
theorem writeKeys_completes (s : State) (key1 key2 key3 : Block) :
    ∃ t, t = complete (((s.write .k1 key1).write .k2 key2).write .k3 key3) ∧
      t.reg .k1 = some key1 ∧ t.reg .k2 = some key2 ∧ t.reg .k3 = some key3 ∧ CompletedWriting [.k1, .k2, .k3] s t :=
  ⟨_, rfl, by simp, by simp, by simp,
    completedWriting_append_write (completedWriting_append_write (completedWriting_write .k1 key1 s) .k2 key2) .k3 key3⟩

/-- Settles O28: the command writes the constant keys of R143 and the key recovered under them; its sources are read before
any of the three writes. -/
theorem atkCompletes : Obligations.AtkCompletes := by
  intro rs1 rs2 s p y hf h1 h2
  obtain ⟨_, rfl, hk1, hk2, hk3, hframe⟩ := writeKeys_completes s (constBlock Config.atkKey1Fill)
    (constBlock Config.atkKey2Fill) (recoverKey3 p y (constBlock Config.atkKey1Fill) (constBlock Config.atkKey2Fill))
  exact ⟨_, _, _, encryptRound p _, encryptRound (encryptRound p _) _, _, exec_atk_of_valid hf h1 h2, hk1, hk2, hk3,
    fun j => constBlock_getElem _ j j.isLt, fun j => constBlock_getElem _ j j.isLt,
    encryptRound_constBlock_getElem p _, encryptRound_constBlock_getElem _ _, recoverKey3_getElem p y _ _, hframe⟩

end Sys2Proof.Machine
end

section
/-! What a transaction or a reset can do to the fault record, and that every fault raised is explained by the state it is raised
in (R161 to R167). Every step therefore keeps the invariant, and a fault is precise. -/

namespace Sys2Proof.Machine

section

variable {s t : State}

/-- What explains a fault is read from the fault record and the registers alone. -/
theorem State.faultExplained_congr (hfault : t.fault = s.fault) (hregs : t.regs = s.regs) :
    t.faultExplained = s.faultExplained := by
  simp only [State.faultExplained, State.valid_eq, State.reg, hfault, hregs]

theorem State.faultExplained_of_none (hf : s.fault = none) : s.faultExplained = true := by
  simp [State.faultExplained, hf]

theorem faultExplained_raise_illegal {w : CmdWord} {e : Illegal} (hw : decode w = .error e) :
    (raise .illegal w s).faultExplained = true := by
  simp [State.faultExplained, hw]

theorem faultExplained_raise_uninit {i : Instr} (hv : ∃ r ∈ sourceRegs i, s.reg r = none) :
    (raise .uninit (encode i) s).faultExplained = true := by
  simpa [State.faultExplained, decodeOfEncode i, State.valid_eq] using hv

theorem faultExplained_raise_rdUninit {r : Reg} (hr : s.reg r = none) :
    (raise .rdUninit (r.sel.setWidth 16) s).faultExplained = true := by
  have hsel : (r.sel.setWidth 16).setWidth 3 = r.sel := by cases r <;> rfl
  simp [State.faultExplained, hsel, State.valid_eq, hr]

theorem responseExplained_refuse (hf : s.faulted = true) : (refuse s).responseExplained = true := by
  have hfault : (refuse s).faulted = true := hf
  simp [State.responseExplained, hfault]

end

/-- What one input can do to the fault record of `s`, ending in `t`: leave it and every register, raise a fault that the state
explains, or end with no fault recorded. -/
inductive FaultOutcome (s t : State) : Prop
  | kept (hfault : t.fault = s.fault) (hregs : t.regs = s.regs) (hrsp : t.responseExplained = true)
  | raised (c : Cause) (info : BitVec 16) (ht : t = raise c info s) (hexpl : t.faultExplained = true)
  | unfaulted (hfault : t.fault = none) (hrsp : t.responseExplained = true)

theorem FaultOutcome.inv {s t : State} (h : FaultOutcome s t) (hs : s.faultExplained = true) : t.Inv := by
  cases h with
  | kept hfault hregs hrsp => exact ⟨(State.faultExplained_congr hfault hregs).trans hs, hrsp⟩
  | raised c info ht hexpl => exact ⟨hexpl, ht ▸ rfl⟩
  | unfaulted hfault hrsp => exact ⟨State.faultExplained_of_none hfault, hrsp⟩

theorem FaultOutcome.precise {s t : State} {f : FaultRecord} (h : FaultOutcome s t) (hs : s.fault = none)
    (ht : t.fault = some f) : FaultRaised f.cause f.info s t := by
  cases h with
  | kept hfault => simp [ht, hs] at hfault
  | raised c info heq =>
    subst heq
    cases ht
    exact faultRaised_raise c info s
  | unfaulted hfault => simp [ht] at hfault

theorem faultOutcome_refuse {s : State} (hf : s.faulted = true) : FaultOutcome s (refuse s) :=
  .kept rfl rfl (responseExplained_refuse hf)

theorem exec_faultOutcome (i : Instr) (s : State) : ∃ t, exec i s = .next t ∧ FaultOutcome s t := by
  rcases exec_cases i s with ⟨hf, he⟩ | ⟨-, hv, he⟩ | ⟨hf, -, u, he, -, -, hfault, -⟩
  · exact ⟨_, he, faultOutcome_refuse hf⟩
  · exact ⟨_, he, .raised _ _ rfl (faultExplained_raise_uninit hv)⟩
  · exact ⟨_, he, .unfaulted (hfault.trans (by simpa [State.faulted_eq] using hf)) rfl⟩

theorem transact_faultOutcome (x : Txn) (s : State) : ∃ t, transact x s = .next t ∧ FaultOutcome s t := by
  cases x with
  | cmd w =>
    rcases command_cases w s with ⟨hf, h⟩ | ⟨-, ⟨e, hw⟩, h⟩ | ⟨-, i, -, h⟩
    · exact ⟨_, h, faultOutcome_refuse hf⟩
    · exact ⟨_, h, .raised _ _ rfl (faultExplained_raise_illegal hw)⟩
    · obtain ⟨t, he, ht⟩ := exec_faultOutcome i s
      exact ⟨t, h.trans he, ht⟩
  | wr sel v =>
    rcases writeBlock_cases sel v s with ⟨hf, h⟩ | ⟨-, rfl, h⟩ | ⟨hf, r, rfl, h⟩
    · exact ⟨_, h, faultOutcome_refuse hf⟩
    · exact ⟨_, h, .raised _ _ rfl rfl⟩
    · exact ⟨_, h, .unfaulted (by simpa [State.faulted_eq] using hf) rfl⟩
  | rd sel =>
    rcases readBlock_cases sel s with ⟨hf, h⟩ | ⟨-, rfl, h⟩ | ⟨-, r, rfl, hr, h⟩ | ⟨-, r, v, -, -, h⟩
    · exact ⟨_, h, faultOutcome_refuse hf⟩
    · exact ⟨_, h, .raised _ _ rfl rfl⟩
    · exact ⟨_, h, .raised _ _ rfl (faultExplained_raise_rdUninit hr)⟩
    · exact ⟨_, h, .kept rfl rfl rfl⟩
  | stat => exact ⟨_, rfl, .kept rfl rfl rfl⟩

theorem runEvent_faultOutcome {e : Event} {s t : State} (h : runEvent e s = .next t) : FaultOutcome s t := by
  cases e with
  | request q =>
    obtain ⟨u, hu, hout⟩ := transact_faultOutcome (requestTxn q) s
    cases h.symm.trans hu
    exact hout
  | reset =>
    cases h
    exact .unfaulted rfl rfl

/-- Settles O55: an idle step keeps the fault record and the registers, and an input does one of the three things of
`FaultOutcome`. -/
theorem stepKeepsInvariant : Obligations.StepKeepsInvariant := by
  rintro s t ⟨hexpl, -⟩ ht
  cases hin : s.inputs with
  | nil =>
    cases ht.symm.trans (step_of_nil hin)
    exact ⟨hexpl, rfl⟩
  | cons e rest => exact (runEvent_faultOutcome ((step_of_cons hin).symm.trans ht)).inv hexpl

/-- Settles O46: of the three things an input can do, only raising a fault records one. -/
theorem faultsArePrecise : Obligations.FaultsArePrecise := by
  intro s t f ht hs hf
  cases hin : s.inputs with
  | nil =>
    cases ht.symm.trans (step_of_nil hin)
    simp [hs] at hf
  | cons e rest => exact ⟨e, rest, rfl, (runEvent_faultOutcome ((step_of_cons hin).symm.trans ht)).precise hs hf⟩

end Sys2Proof.Machine
end

section
/-! The checks inside a transaction: the sources of each command (R165), the legality of a word (R167), and the order they are
made in (R168). -/

namespace Sys2Proof.Machine

section

variable {s : State}

theorem exec_faultRaised_of_invalid {i : Instr} (hf : s.fault = none) (hv : ∃ r ∈ sourceRegs i, s.reg r = none) :
    ∃ t, exec i s = .next t ∧ FaultRaised .uninit (encode i) s t :=
  ⟨_, exec_of_invalid hf hv, faultRaised_raise _ _ s⟩

theorem exec_unfaulted_of_valid {i : Instr} (hf : s.fault = none) (hv : ∀ r ∈ sourceRegs i, s.reg r ≠ none) :
    ∃ t, exec i s = .next t ∧ t.fault = none := by
  obtain ⟨ws, -, hex⟩ := exec_writes_determined i s hv
  exact ⟨_, hex s hf fun _ _ => rfl, by simpa using hf⟩

theorem command_of_illegal {w : CmdWord} {e : Illegal} (hf : s.fault = none) (hw : decode w = .error e) :
    command w s = .next (raise .illegal w s) := by
  simp [command, State.faulted_eq, hf, hw]

/-- A legal CMD of an unfaulted machine: the sources are checked, then the command runs (R168). -/
theorem command_of_legal {w : CmdWord} {i : Instr} (hf : s.fault = none) (hw : decode w = .ok i) :
    command w s =
      if (sourceRegs i).any (fun r => (s.reg r).isNone) then .next (raise .uninit w s) else exec i s := by
  rw [command_of_decode hw, (decode_eq_ok_iff w i).1 hw]
  split
  case isTrue hv => exact exec_of_invalid hf (by simpa using hv)
  case isFalse => rfl

end

/-- Settles O30: the two outcomes of a command by its sources, at each row of the table. -/
theorem invalidSourceRaisesUninit : Obligations.InvalidSourceRaisesUninit := by
  intro s rd rs1 rs2 hf Checked
  have checked (i : Instr) : Checked i (sourceRegs i) :=
    ⟨exec_faultRaised_of_invalid hf, exec_unfaulted_of_valid hf⟩
  exact ⟨checked (.rotl rd rs1), checked (.rotr rd rs1), checked (.trsp rd rs1), checked (.xork rd rs1 rs2),
    checked (.enc rd rs1), checked (.dec rd rs1), checked (.rk3 rs1 rs2), checked (.atk rs1 rs2)⟩

/-- Settles O43: the word is checked before any register is looked at. -/
theorem illegalWordRaises : Obligations.IllegalWordRaises := by
  intro s q rest e hin hk hf hw
  rw [step_of_request hin, requestTxn_of_cmd hk]
  exact ⟨_, command_of_illegal hf hw, faultRaised_raise _ _ _⟩

/-- Settles O39: a faulted machine refuses; otherwise the first check of the kind that applies decides. -/
theorem checksInOrder : Obligations.ChecksInOrder := by
  intro s
  cases hf : s.fault with
  | some f =>
    have hfaulted : s.faulted = true := by simp [State.faulted_eq, hf]
    exact ⟨fun w => transact_refuses_of_faulted hfaulted (by simp),
      fun n v => transact_refuses_of_faulted hfaulted (by simp),
      fun n => transact_refuses_of_faulted hfaulted (by simp), rfl⟩
  | none =>
    refine ⟨fun w => ?_, fun n v => ?_, fun n => ?_, rfl⟩
    · cases hw : decode w with
      | error e => exact command_of_illegal hf hw
      | ok i => exact command_of_legal hf hw
    · by_cases h7 : n = 7
      · subst h7; exact writeBlock_seven v hf
      · obtain ⟨r, rfl⟩ := (Reg.exists_sel_iff n).2 h7
        rw [if_neg h7, Reg.ofSel_sel]
        exact writeBlock_sel r v hf
    · by_cases h7 : n = 7
      · subst h7; exact readBlock_seven hf
      · obtain ⟨r, rfl⟩ := (Reg.exists_sel_iff n).2 h7
        rw [if_neg h7, Reg.ofSel_sel, Option.bind_some]
        cases hr : s.reg r with
        | none => exact readBlock_of_invalid hf hr
        | some v => exact readBlock_of_valid hf hr

end Sys2Proof.Machine
end

section
/-! Reset (R190 to R193): what it gives, and that every other step keeps each valid register valid and a recorded fault
recorded. -/

namespace Sys2Proof.Machine

theorem step_of_reset {s : State} {rest : List Event} (hin : s.inputs = .reset :: rest) :
    step s = .next { State.reset with inputs := rest } :=
  step_of_cons hin

section

variable {s t : State} {r : Reg}

theorem exec_keeps_valid {i : Instr} (h : exec i s = .next t) (hr : s.reg r ≠ none) : t.reg r ≠ none := by
  obtain ⟨hframe, hdest, -⟩ := commandsFrame i s t h
  by_cases hmem : r ∈ destRegs i
  · rcases hdest r hmem with hsame | hwritten
    · rwa [hsame]
    · exact hwritten
  · rwa [hframe r hmem]

theorem State.write_keeps_valid (q : Reg) (v : Block) (hr : s.reg r ≠ none) : (s.write q v).reg r ≠ none := by
  rw [State.reg_write]
  split
  case isTrue => simp
  case isFalse => exact hr

theorem transact_keeps_valid {x : Txn} (h : transact x s = .next t) (hr : s.reg r ≠ none) : t.reg r ≠ none := by
  cases x with
  | cmd w =>
    rcases command_cases w s with ⟨-, hc⟩ | ⟨-, -, hc⟩ | ⟨-, i, -, hc⟩
    · cases h.symm.trans hc; exact hr
    · cases h.symm.trans hc; exact hr
    · exact exec_keeps_valid (hc.symm.trans h) hr
  | wr sel v =>
    rcases writeBlock_cases sel v s with ⟨-, hc⟩ | ⟨-, -, hc⟩ | ⟨-, q, -, hc⟩ <;> cases h.symm.trans hc
    · exact hr
    · exact hr
    · exact State.write_keeps_valid q v hr
  | rd sel =>
    rcases readBlock_cases sel s with ⟨-, hc⟩ | ⟨-, -, hc⟩ | ⟨-, _, _, _, hc⟩ | ⟨-, _, _, _, _, hc⟩ <;>
      cases h.symm.trans hc <;> exact hr
  | stat => cases h; exact hr

theorem step_keeps_valid (h : step s = .next t) (hne : ∀ rest, s.inputs ≠ .reset :: rest) (hr : s.reg r ≠ none) :
    t.reg r ≠ none := by
  cases hin : s.inputs with
  | nil => cases h.symm.trans (step_of_nil hin); exact hr
  | cons e rest =>
    cases e with
    | request q => exact transact_keeps_valid (s := { s with inputs := rest }) ((step_of_request hin).symm.trans h) hr
    | reset => exact absurd hin (hne rest)

theorem step_keeps_fault {f : FaultRecord} (h : step s = .next t) (hne : ∀ rest, s.inputs ≠ .reset :: rest)
    (hf : s.fault = some f) : t.fault = some f := by
  have hhead : s.inputs.head? ≠ some .reset := fun hh =>
    have ⟨rest, hin⟩ := List.head?_eq_some_iff.1 hh
    hne rest hin
  obtain ⟨u, hu, hfault, -⟩ := step_of_faulted (by simp [State.faulted_eq, hf]) hhead
  cases h.symm.trans hu
  exact hfault.trans hf

end

/-- Settles O47: the reset input, any other step, and the clocked edge with `rst` high. -/
theorem onlyResetClears : Obligations.OnlyResetClears :=
  ⟨fun _ _ => step_of_reset, fun _ _ h hne => ⟨fun _ => step_keeps_valid h hne, fun _ => step_keeps_fault h hne⟩,
    fun _ _ _ => edge_of_rst⟩

/-- Settles O48: each element of the closed reset state by evaluation, the registers by `reset_reg`. -/
theorem resetStateValues : Obligations.ResetStateValues :=
  ⟨reset_reg, rfl, rfl, by decide, rfl, rfl, rfl, rfl⟩

/-- Settles O56: at reset there is no fault and no response to explain. -/
theorem resetMeetsInvariant : Obligations.ResetMeetsInvariant :=
  ⟨State.faultExplained_of_none rfl, rfl⟩

/-- Settles O59: with `rst` high the edge is the reset edge, whether or not the request would have been answered at it. -/
theorem resetAbandonsRequest : Obligations.ResetAbandonsRequest :=
  fun _ _ _ _ _ hrst => ⟨_, edge_of_rst hrst, rfl, rfl, rfl⟩

end Sys2Proof.Machine
end

section
/-! The algebra of the two rotations and of XOR on blocks (sections 4 and 5 of 40_block_codec.md, section 3 of
41_layout_transform.md): the rotations are inverse to each other and have the same square, and a power of a map that distributes
over XOR does too. -/

namespace Sys2Proof.Machine

@[simp] theorem rotateRowsLeft_rotateRowsRight (b : Block) : rotateRowsLeft (rotateRowsRight b) = b :=
  block_ext_rows fun i c => (rotateRowsLeft_getElem _ i c).trans (rotateRowsRight_getElem b i c)

@[simp] theorem rotateRowsRight_rotateRowsLeft (b : Block) : rotateRowsRight (rotateRowsLeft b) = b :=
  rotateRightUndoesLeft b

theorem rotateRowsLeft_twice_getElem (b : Block) (i c : Fin 4) :
    (rotateRowsLeft (rotateRowsLeft b))[4 * i.val + c.val] = b[4 * i.val + (c.val + 2 * i.val) % 4] := by
  have hplace : ((c.val + i.val) % 4 + i.val) % 4 = (c.val + 2 * i.val) % 4 := by omega
  rw [rotateRowsLeft_getElem]
  simpa only [hplace] using rotateRowsLeft_getElem b i ⟨(c.val + i.val) % 4, Nat.mod_lt _ (by decide)⟩

/-- Row `i` goes left or right by `2 * i` places, and the two differ by `4 * i`: a whole number of turns. -/
theorem rotateRowsRight_twice (b : Block) :
    rotateRowsRight (rotateRowsRight b) = rotateRowsLeft (rotateRowsLeft b) := by
  have hsrc : ∀ p, rightSource (rightSource p) = leftSource (leftSource p) := by decide
  calc rotateRowsRight (rotateRowsRight b)
    _ = permute (rightSource ∘ rightSource) b := permute_permute rightSource rightSource b
    _ = permute (leftSource ∘ leftSource) b := permute_congr hsrc b
    _ = rotateRowsLeft (rotateRowsLeft b) := (permute_permute leftSource leftSource b).symm

theorem rotateRowsLeft_thrice (b : Block) :
    rotateRowsLeft (rotateRowsLeft (rotateRowsLeft b)) = rotateRowsRight b := by
  rw [← rotateRowsRight_twice, rotateRowsRight_rotateRowsLeft]

theorem rotateRowsRight_thrice (b : Block) :
    rotateRowsRight (rotateRowsRight (rotateRowsRight b)) = rotateRowsLeft b := by
  rw [rotateRowsRight_twice (rotateRowsRight b), rotateRowsLeft_rotateRowsRight]

/-- Settles O14: a cube is the inverse rotation, because the two rotations have the same square, and so a fourth power is the
identity. -/
theorem rotationHasOrderFour : Obligations.RotationHasOrderFour := fun b =>
  ⟨rotateRowsLeft_twice_getElem b, rotateRowsLeft_thrice b,
    by rw [rotateRowsLeft_thrice, rotateRowsRight_rotateRowsLeft],
    rotateRowsRight_thrice b,
    by rw [rotateRowsRight_thrice, rotateRowsLeft_rotateRowsRight]⟩

theorem eq_permute_of_mem {f : Block → Block} (hf : f ∈ [rotateRowsLeft, rotateRowsRight, transpose]) :
    ∃ src, f = permute src := by
  simp only [List.mem_cons, List.not_mem_nil, or_false] at hf
  rcases hf with rfl | rfl | rfl
  · exact ⟨leftSource, rfl⟩
  · exact ⟨rightSource, rfl⟩
  · exact ⟨transposeSource, rfl⟩

/-- Settles O15: each of the three maps is a lane permutation, and what a lane permutation does once it does `n` times. -/
theorem permutationsDistributeOverXor : Obligations.PermutationsDistributeOverXor := by
  intro f hf n
  obtain ⟨src, rfl⟩ := eq_permute_of_mem hf
  have hxor : Function.Semiconj₂ (permute src) xorWithKey xorWithKey := permute_xorWithKey src
  exact ⟨hxor.iterate n, fun v => Function.iterate_fixed (permute_constBlock src v) n⟩

theorem rotateRowsLeft_xorWithKey (a b : Block) :
    rotateRowsLeft (xorWithKey a b) = xorWithKey (rotateRowsLeft a) (rotateRowsLeft b) :=
  permute_xorWithKey leftSource a b

theorem xorWithKey_left_comm (a b c : Block) : xorWithKey a (xorWithKey b c) = xorWithKey b (xorWithKey a c) := by
  rw [← xorWithKey_assoc, xorWithKey_comm a b, xorWithKey_assoc]

theorem xorWithKey_cancel_left (a b : Block) : xorWithKey a (xorWithKey a b) = b := by
  rw [xorWithKey_comm a, xorWithKey_comm a, xorWithKey_xorWithKey_self]

/-- Moving an operand of XOR to the other side of an equation. -/
theorem xorWithKey_eq_iff (a b c : Block) : xorWithKey a b = c ↔ b = xorWithKey a c := by
  constructor
  · rintro rfl; exact (xorWithKey_cancel_left a b).symm
  · rintro rfl; exact xorWithKey_cancel_left a c

theorem xorWithKey_self_right (a b : Block) : xorWithKey a (xorWithKey b b) = a := by
  rw [← xorWithKey_assoc, xorWithKey_xorWithKey_self]

theorem xorWithKey_eq_left_iff (k a b : Block) : xorWithKey k (xorWithKey a b) = k ↔ a = b := by
  rw [xorWithKey_eq_iff, xorWithKey_eq_iff, xorWithKey_self_right, eq_comm]

end Sys2Proof.Machine
end

section
/-! The cipher as one rotation and one XOR (section 3 of 42_cipher_engine.md), and with it the recovered triple as an equivalent
key (section 4 of 43_key_recovery.md). -/

namespace Sys2Proof.Machine

@[simp] theorem encryptRound_decryptRound (b k : Block) : encryptRound (decryptRound b k) k = b := by
  rw [encryptRound, decryptRound, rotateRowsLeft_rotateRowsRight, xorWithKey_xorWithKey_self]

/-- Settles O17: each round of encryption undoes the round of decryption with the same key. -/
theorem inversesOnTheOtherSide : Obligations.InversesOnTheOtherSide :=
  ⟨rotateRowsLeft_rotateRowsRight, fun b key1 key2 key3 => by
    simp only [encrypt_eq_rounds, decrypt_eq_rounds, encryptRound_decryptRound]⟩

/-- The effective key of a triple: all that the cipher sees of it. -/
def effectiveKey (key1 key2 key3 : Block) : Block :=
  xorWithKey (rotateRowsLeft (rotateRowsLeft key1)) (xorWithKey (rotateRowsLeft key2) key3)

theorem encrypt_eq_xor_effectiveKey (b key1 key2 key3 : Block) :
    encrypt b key1 key2 key3 = xorWithKey (rotateRowsRight b) (effectiveKey key1 key2 key3) := by
  simp only [encrypt_eq_rounds, encryptRound, effectiveKey, rotateRowsLeft_xorWithKey, rotateRowsLeft_thrice,
    xorWithKey_assoc]

/-- Decryption is the inverse of encryption, so its closed form is the inverse of the other. -/
theorem decrypt_eq_rotate_xor_effectiveKey (b key1 key2 key3 : Block) :
    decrypt b key1 key2 key3 = rotateRowsLeft (xorWithKey b (effectiveKey key1 key2 key3)) := by
  have henc : encrypt (rotateRowsLeft (xorWithKey b (effectiveKey key1 key2 key3))) key1 key2 key3 = b := by
    rw [encrypt_eq_xor_effectiveKey, rotateRowsRight_rotateRowsLeft, xorWithKey_xorWithKey_self]
  have hdec := decryptUndoesEncrypt (rotateRowsLeft (xorWithKey b (effectiveKey key1 key2 key3))) key1 key2 key3
  rwa [henc] at hdec

/-- Settles O18: the rotations of the three rounds move inward past the XORs. -/
theorem cipherClosedForm : Obligations.CipherClosedForm := fun b key1 key2 key3 =>
  ⟨encrypt_eq_xor_effectiveKey b key1 key2 key3, decrypt_eq_rotate_xor_effectiveKey b key1 key2 key3⟩

/-- One encrypted block determines the effective key. -/
theorem effectiveKey_eq_of_encrypt_eq {p a1 a2 a3 true1 true2 true3 : Block}
    (h : encrypt p a1 a2 a3 = encrypt p true1 true2 true3) :
    effectiveKey a1 a2 a3 = effectiveKey true1 true2 true3 := by
  rwa [encrypt_eq_xor_effectiveKey, encrypt_eq_xor_effectiveKey, xorWithKey_eq_iff, xorWithKey_cancel_left] at h

/-- The one third key that completes two given keys to a triple with a given effective key. -/
theorem effectiveKey_eq_iff (a1 a2 a3 true1 true2 true3 : Block) :
    effectiveKey a1 a2 a3 = effectiveKey true1 true2 true3 ↔
      a3 = xorWithKey true3 (xorWithKey (rotateRowsLeft (rotateRowsLeft (xorWithKey true1 a1)))
        (rotateRowsLeft (xorWithKey true2 a2))) := by
  simp only [effectiveKey, xorWithKey_eq_iff, rotateRowsLeft_xorWithKey]
  simp only [xorWithKey_comm, xorWithKey_left_comm]

/-- Settles O19: the recovered triple encrypts `p` as the true one does, so it has the same effective key, which is all that the
cipher depends on. -/
theorem recoveredTripleIsEquivalentKey : Obligations.RecoveredTripleIsEquivalentKey := by
  intro p true1 true2 true3 a1 a2 k3 offset1 offset2
  have hkey : effectiveKey a1 a2 k3 = effectiveKey true1 true2 true3 :=
    effectiveKey_eq_of_encrypt_eq (encrypt_recoverKey3 p _ a1 a2)
  have hk3 : k3 = xorWithKey true3 (xorWithKey offset1 offset2) := (effectiveKey_eq_iff _ _ _ _ _ _).1 hkey
  refine ⟨hk3, fun b => ?_, fun b => ?_, ?_⟩
  · rw [encrypt_eq_xor_effectiveKey, hkey, ← encrypt_eq_xor_effectiveKey]
  · rw [decrypt_eq_rotate_xor_effectiveKey, hkey, ← decrypt_eq_rotate_xor_effectiveKey]
  · rw [hk3, xorWithKey_eq_left_iff]

end Sys2Proof.Machine
end

section
/-! Commands composed: the pseudo-instructions of R79, which surround others with TRSP, and ATK as key writes and RK3 (R143). -/

namespace Sys2Proof.Machine

section

variable {s : State}

/-- A command in a register between two transposes of it, as in ENCF and DECF. `hcmd` says what the command computes there. -/
theorem execAll_between_transposes {rd rs1 : Reg} {cmd : Instr} {v w : Block} (hf : s.fault = none)
    (h1 : s.reg rs1 = some v)
    (hcmd : exec cmd (complete (s.write rd (transpose v))) = .next (complete (s.write rd w))) :
    execAll [.trsp rd rs1, cmd, .trsp rd rd] s = .next (complete (s.write rd (transpose w))) := by
  have hback : exec (.trsp rd rd) (complete (s.write rd w)) = .next (complete (s.write rd (transpose w))) := by
    rw [exec_trsp_of_valid (v := w) rd (by simp [hf]) (by simp)]
    simp
  rw [execAll_cons_of_next (exec_trsp_of_valid rd hf h1), execAll_cons_of_next hcmd, execAll_cons_of_next hback]
  rfl

/-- Three TRSPs whose destinations are different from one another and from every source, as in LDKF and STKF. -/
theorem execAll_trsp_three {rd1 rd2 rd3 rs1 rs2 rs3 : Reg} {v1 v2 v3 : Block} (hf : s.fault = none)
    (h1 : s.reg rs1 = some v1) (h2 : s.reg rs2 = some v2) (h3 : s.reg rs3 = some v3)
    (hne : [rd1, rd2, rd3, rs1, rs2, rs3].Nodup) :
    ∃ t, execAll [.trsp rd1 rs1, .trsp rd2 rs2, .trsp rd3 rs3] s = .next t ∧ t.reg rd1 = some (transpose v1) ∧
      t.reg rd2 = some (transpose v2) ∧ t.reg rd3 = some (transpose v3) ∧ CompletedWriting [rd1, rd2, rd3] s t := by
  simp only [List.nodup_cons, List.mem_cons, List.not_mem_nil, or_false, not_or] at hne
  obtain ⟨⟨h12, h13, -, h15, h16⟩, ⟨h23, -, -, h26⟩, -⟩ := hne
  have hfirst := exec_trsp_of_valid rd1 hf h1
  have hsecond := exec_trsp_of_valid (s := complete (s.write rd1 (transpose v1))) (v := v2) (rs1 := rs2) rd2 hf
    (by simpa [Ne.symm h15] using h2)
  have hthird := exec_trsp_of_valid (s := complete ((s.write rd1 (transpose v1)).write rd2 (transpose v2))) (v := v3)
    (rs1 := rs3) rd3 hf (by simpa [Ne.symm h16, Ne.symm h26] using h3)
  refine ⟨complete (((s.write rd1 (transpose v1)).write rd2 (transpose v2)).write rd3 (transpose v3)), ?_, ?_, ?_, ?_,
    completedWriting_append_write (completedWriting_append_write (completedWriting_write rd1 _ s) rd2 _) rd3 _⟩
  · rw [execAll_cons_of_next hfirst, execAll_cons_of_next hsecond]
    exact execAll_cons_of_next hthird []
  · simp [h12, h13]
  · simp [h23]
  · simp

end

theorem fileDecrypt_fileEncrypt (f f0 f1 f2 : Block) : fileDecrypt (fileEncrypt f f0 f1 f2) f0 f1 f2 = f := by
  rw [fileDecrypt, fileEncrypt, transpose_transpose, decryptUndoesEncrypt, transpose_transpose]

/-- Settles O34: the register is a data register, so the transposes and the command between them leave the keys. -/
theorem fileLevelPseudoInstructions : Obligations.FileLevelPseudoInstructions := by
  intro rd rs1 s f f0 f1 f2 hrd hf h1 ha hb hc
  obtain ⟨hk1, hk2, hk3⟩ := keys_ne_of_data rd hrd
  have hrd1 : (s.write rd (transpose f)).reg rd = some (transpose f) := s.reg_write_self rd _
  have ha' := (s.reg_write_of_ne (transpose f) hk1).trans ha
  have hb' := (s.reg_write_of_ne (transpose f) hk2).trans hb
  have hc' := (s.reg_write_of_ne (transpose f) hk3).trans hc
  have henc := exec_enc_of_valid (s := complete (s.write rd (transpose f))) rd hf hrd1 ha' hb' hc'
  have hdec := exec_dec_of_valid (s := complete (s.write rd (transpose f))) rd hf hrd1 ha' hb' hc'
  simp only [complete_write, complete_complete, State.write_write_self] at henc hdec
  exact ⟨⟨_, execAll_between_transposes hf h1 henc, s.reg_write_self rd _, completedWriting_write rd _ s⟩,
    ⟨_, execAll_between_transposes hf h1 hdec, s.reg_write_self rd _, completedWriting_write rd _ s⟩,
    fileDecrypt_fileEncrypt f f0 f1 f2⟩

/-- Settles O35: both sequences are three TRSPs between the data and the key registers, and a key transposed twice is the
key. -/
theorem storedKeyFileReloads : Obligations.StoredKeyFileReloads := by
  intro s key1 key2 key3 hf ha hb hc
  obtain ⟨t, hstkf, h0, h1, h2, hframe⟩ :=
    execAll_trsp_three (rd1 := .d0) (rd2 := .d1) (rd3 := .d2) hf ha hb hc (by decide)
  have ⟨_, htf, _⟩ := hframe
  obtain ⟨u, hldkf, hk1, hk2, hk3, hframe'⟩ :=
    execAll_trsp_three (rd1 := .k1) (rd2 := .k2) (rd3 := .k3) (htf.trans hf) h0 h1 h2 (by decide)
  rw [transpose_transpose] at hk1 hk2 hk3
  exact ⟨t, u, hstkf, h0, h1, h2, hframe, hldkf, hk1, hk2, hk3, hframe'⟩

/-- Settles O29: the two writes leave the sources, RK3 finds the constant keys in K1 and K2, and what it writes to K3 is what ATK
writes there. -/
theorem atkIsKeyWritesThenRk3 : Obligations.AtkIsKeyWritesThenRk3 := by
  intro rs1 rs2 s h11 h12 h21 h22 hf h1 h2
  obtain ⟨p, h1⟩ := Option.ne_none_iff_exists'.1 h1
  obtain ⟨y, h2⟩ := Option.ne_none_iff_exists'.1 h2
  have hatk := exec_atk_of_valid hf h1 h2
  have hrk3 := exec_rk3_of_valid (s := (s.write .k1 (constBlock 1)).write .k2 (constBlock 0)) (v := p) (w := y)
    (a := constBlock 1) (b := constBlock 0) (rs1 := rs1) (rs2 := rs2) hf (by simp [h11, h12, h1]) (by simp [h21, h22, h2])
    (by simp) (by simp)
  exact hatk.trans hrk3.symm

end Sys2Proof.Machine
end

section
/-! The host's own accesses WR, RD and STAT repeated at once (section 6 of 20_memory.md). -/

namespace Sys2Proof.Machine

theorem refuse_eq_self {t : State} (hrsp : t.rsp = some ⟨0, true⟩) : refuse t = t := by
  cases t
  cases hrsp
  rfl

/-- A transaction that was refused or has raised a fault is refused when it is repeated, with the answer it had. -/
theorem transact_repeated_of_faulted {x : Txn} {t : State} (hx : x ≠ .stat) (hf : t.faulted = true)
    (hrsp : t.rsp = some ⟨0, true⟩) : transact x t = .next t := by
  rw [transact_refuses_of_faulted hf hx, refuse_eq_self hrsp]

/-- Settles O54: a WR, RD or STAT that completed finds the same register and STATUS again, and the others are refused with the
answer of the first. -/
theorem accessesAreIdempotent : Obligations.AccessesAreIdempotent := by
  intro x s t hcmd ht
  cases x with
  | cmd w => exact absurd rfl (hcmd w)
  | wr sel v =>
    rcases writeBlock_cases sel v s with ⟨hf, h⟩ | ⟨-, -, h⟩ | ⟨hf, r, rfl, h⟩ <;> cases ht.symm.trans h
    · exact transact_repeated_of_faulted (by simp) hf rfl
    · exact transact_repeated_of_faulted (by simp) rfl rfl
    · have hagain := writeBlock_sel (s := complete (s.write r v)) r v (by simpa [State.faulted_eq] using hf)
      exact hagain.trans (by simp)
  | rd sel =>
    rcases readBlock_cases sel s with ⟨hf, h⟩ | ⟨-, -, h⟩ | ⟨-, r, rfl, -, h⟩ | ⟨hf, r, v, rfl, hr, h⟩ <;>
      cases ht.symm.trans h
    · exact transact_repeated_of_faulted (by simp) hf rfl
    · exact transact_repeated_of_faulted (by simp) rfl rfl
    · exact transact_repeated_of_faulted (by simp) rfl rfl
    · exact readBlock_of_valid (s := respond (blockToData v) false s) (by simpa [State.faulted_eq] using hf) hr
  | stat => cases ht; rfl

end Sys2Proof.Machine
end

section
/-! The keys right after reset (section 1 of 70_reset_and_hazards.md): they are invalid like every other register, so using one is
`E_UNINIT` and reading one `E_RDUNINIT`. -/

namespace Sys2Proof.Machine

/-- Settles O49: after a reset no register is valid and no fault is recorded, so the checks of the sources apply. -/
theorem keysUnusableAfterReset : Obligations.KeysUnusableAfterReset := by
  intro s t rest rd rs1 rs2 hin ht
  cases ht.symm.trans (step_of_reset hin)
  have hreg (r : Reg) : State.reg { State.reset with inputs := rest } r = none := reset_reg r
  have uses_k1 (i : Instr) (hi : Reg.k1 ∈ sourceRegs i) :=
    exec_faultRaised_of_invalid (s := { State.reset with inputs := rest }) rfl ⟨.k1, hi, hreg .k1⟩
  exact ⟨uses_k1 (.enc rd rs1) (by simp [sourceRegs]), uses_k1 (.dec rd rs1) (by simp [sourceRegs]),
    uses_k1 (.rk3 rs1 rs2) (by simp [sourceRegs]),
    fun r _ => ⟨_, readBlock_of_invalid rfl (hreg r), faultRaised_raise _ _ _⟩⟩

end Sys2Proof.Machine
end

section
/-! Command words from outside: the word placed by `withFetchWord` (log entry 2) and the worked encodings of R80. -/

namespace Sys2Proof.Machine

theorem decode_of_decodeTableWord {nbits w : Nat} {i : Instr} (h : decodeTableWord nbits w = some i) :
    decode (BitVec.ofNat 16 (w % 2 ^ nbits)) = .ok i := by
  unfold decodeTableWord at h
  split at h
  · split at h
    · next hw => cases h; exact hw
    · cases h
  · cases h

/-- Settles O45: the step takes the presented CMD off again and runs the command its word decodes to. -/
theorem withFetchWordRunsNext : Obligations.WithFetchWordRunsNext := by
  intro s nbits w i _ hw
  rw [step_of_request (s := s.withFetchWord nbits w) rfl, requestTxn_commandRequest]
  exact command_of_decode (decode_of_decodeTableWord hw) s

/-- Settles O8: each legal word is the encoding of its command, and each illegal one is rejected by evaluation. -/
theorem workedEncodings : Obligations.WorkedEncodings :=
  ⟨decodeOfEncode (.rotl .d1 .d0), decodeOfEncode (.rotr .d2 .d1), decodeOfEncode (.xork .d2 .d1 .k1),
    decodeOfEncode (.trsp .k1 .d0), decodeOfEncode (.enc .d1 .d0), decodeOfEncode (.dec .d3 .d3),
    decodeOfEncode (.rk3 .d0 .d1), decodeOfEncode (.atk .d0 .d1), by decide, by decide, by decide, by decide, by decide,
    by decide, by decide⟩

end Sys2Proof.Machine
end
